-- ==== Sys2Proof/Word.lean ====
section
/-!
DEFINITION. The words of MHZ19-FCT: bytes, 16-bit values, the nine-byte frame,
the five-byte payload and the four-byte version (00_scope.md R10, R12; 20_memory.md R51).
-/

namespace Sys2Proof

/-- A byte, an unsigned 8-bit value (00_scope.md R10). -/
abbrev Byte := BitVec 8

/-- A 16-bit unsigned value (00_scope.md R12). -/
abbrev Half := BitVec 16

/-- A frame: nine bytes, index 0 first on the wire (00_scope.md R10, 30_encoding.md R80). -/
abbrev Frame := Vector Byte 9

/-- The payload field of a frame: five bytes (00_scope.md R7). -/
abbrev Payload := Vector Byte 5

/-- The cached firmware version: four bytes (10_state.md R23). -/
abbrev Version := Vector Byte 4

end Sys2Proof
end

