-- ==== Sys2Proof/Syntax.lean ====
section
/-!
DEFINITION. The syntax of MHZ19-FCT: the host operations as the opcode table lists them (30_encoding.md R88, R94),
the host's request as it stands on the request port (92_eei_decisions.md D2), and the operands of an exchange
(41_transceiver.md R130).
-/

namespace Sys2Proof

/-- One constructor per row of spec/opcode_table.json. The table has SET_ABC twice, once for each value of
its operand (30_encoding.md R81). -/
inductive Instr where
  /-- READ_CO2 (42_commands.md R162). -/
  | readCo2
  /-- READ_TEMP (42_commands.md R163). -/
  | readTemp
  /-- SET_ABC on (42_commands.md R164). -/
  | setAbcOn
  /-- SET_ABC off (42_commands.md R164). -/
  | setAbcOff
  /-- GET_ABC (42_commands.md R165). -/
  | getAbc
  /-- ZERO_CAL (42_commands.md R166). -/
  | zeroCal
  /-- GET_VERSION (42_commands.md R167). -/
  | getVersion
  /-- OPEN, with its one-bit operand (43_handle.md R191). -/
  | openHandle (verbose : Bool)
  /-- CLOSE (43_handle.md R193). -/
  | closeHandle
  deriving DecidableEq, Repr

/-- The eight host operations, the values of the latch `cur_op` (10_state.md R31, 30_encoding.md R94). -/
inductive HostOp where
  | openOp
  | closeOp
  | readCo2
  | readTemp
  | setAbc
  | getAbc
  | zeroCal
  | getVersion
  deriving DecidableEq, Repr

/-- What the host presents on its request port: a 4-bit operation code and one operand bit
(30_encoding.md R94, 92_eei_decisions.md D2). -/
structure HostReq where
  op  : BitVec 4
  arg : Bool
  deriving DecidableEq, Repr

/-- What the host can do to an idle block: present an operation, or reset it
(00_scope.md R17, 70_reset_and_hazards.md R250). -/
inductive HostEvent where
  | request (r : HostReq)
  | reset
  deriving DecidableEq, Repr

/-- The operands of one exchange: the command byte, the request payload bytes and the response width
(41_transceiver.md R130). -/
structure ExchangeReq where
  cmd     : Byte
  payload : List Byte
  width   : Nat
  deriving DecidableEq, Repr

/-- What DECODE returns for a frame whose checksum is right (40_codec.md R114). -/
structure Decoded where
  rcmd : Byte
  rpay : Payload
  deriving DecidableEq, Repr

/-- The two fields of ChecksumMismatch (40_codec.md R114, 10_state.md R34). -/
structure Mismatch where
  expected : Byte
  actual   : Byte
  deriving DecidableEq, Repr

/-- Why a word or a list of bytes is no instruction. -/
inductive DecodeError where
  /-- Neither one byte (a host code) nor nine (a frame); 30_encoding.md R93. -/
  | wrongLength
  /-- A host operation code 0x8 to 0xF (30_encoding.md R94). -/
  | noSuchOperation
  /-- A bit of the host word above `arg` is set (DESIGN CHOICE, log 3). -/
  | strayHostBits
  /-- Frame byte 0 is not 0xFF (30_encoding.md R83). -/
  | badStart
  /-- Frame byte 1 is not 0x01 (30_encoding.md R84). -/
  | badReserved
  /-- Frame byte 2 is none of the six opcodes (30_encoding.md R88). -/
  | unknownCommand
  /-- The payload is none the command sends (30_encoding.md R88, R89). -/
  | badPayload
  /-- Frame byte 8 is not the checksum (40_codec.md R110). -/
  | badChecksum
  deriving DecidableEq, Repr

end Sys2Proof
end

