-- ==== Sys2Proof/Machine/Codec.lean ====
section
/-!
DEFINITION. The Frame Codec: CHECKSUM, ENCODE, DECODE (40_codec.md R110, R112, R114). One checksum routine serves
both directions (R116).
-/

namespace Sys2Proof.Machine

/-- The sum of bytes 1 to 7 as a mathematical integer; byte 0 and byte 8 are not read (40_codec.md R110). -/
def checksumSum (b : Frame) : Nat :=
  b[1].toNat + b[2].toNat + b[3].toNat + b[4].toNat + b[5].toNat + b[6].toNat + b[7].toNat

/-- CHECKSUM (40_codec.md R110): `(0xFF - (sum mod 256) + 1) mod 256`. -/
def checksum (b : Frame) : Byte :=
  BitVec.ofNat 8 ((0xFF - checksumSum b % 256 + 1) % 256)

/-- Payload byte `p` of a request with `n` payload bytes: zero from index `n` on (30_encoding.md R86). -/
def paddedByte (pl : List Byte) (n p : Nat) : Byte :=
  if p < n then pl.getD p 0x00 else 0x00

/-- ENCODE (40_codec.md R112). `none` where the payload is longer than five bytes, to which the spec gives no
behaviour (R113 c). -/
def codecEncode (cmd : Byte) (pl : List Byte) (n : Nat) : Option Frame :=
  if 5 < n then none
  else
    let body : Frame := #v[0xFF, 0x01, cmd, paddedByte pl n 0, paddedByte pl n 1, paddedByte pl n 2,
      paddedByte pl n 3, paddedByte pl n 4, 0x00]
    some (body.set 8 (checksum body))

/-- The payload field of a frame, `rpay[p] = rxf[3+p]` (40_codec.md R114). -/
def framePayload (f : Frame) : Payload := #v[f[3], f[4], f[5], f[6], f[7]]

/-- DECODE (40_codec.md R114): the checksum is the only test made (R115). -/
def codecDecode (f : Frame) : Except Mismatch Decoded :=
  if checksum f = f[8] then .ok { rcmd := f[2], rpay := framePayload f }
  else .error { expected := checksum f, actual := f[8] }

end Sys2Proof.Machine
end

