-- ==== Sys2Proof/Config.lean ====
section
/-!
DEFINITION. What a build of the block fixes (the parameters of 00_scope.md R7) and the free values: opaque
constants with no body, so that nothing is provable about a value the spec leaves unspecified.
-/

namespace Sys2Proof

/-- Which read calls count against RETRY_CEILING (41_transceiver.md R134). -/
inductive AttemptCounting where
  | allCalls
  | zeroReturnsOnly
  deriving DecidableEq, Repr

/-- The named parameters of 00_scope.md R7 that a rule reads. CH_TIMEOUT_MS and the line settings are read by
no rule (60_exceptions.md R225, R227) and are not here. -/
structure Config where
  /-- RETRY_CEILING (R7, decision D6). -/
  retryCeiling : Nat
  /-- ATTEMPT_COUNTING (R134, decision D7). -/
  attemptCounting : AttemptCounting
  /-- OPEN_VERSION_TRIES (43_handle.md R192, decision D14). -/
  openVersionTries : Nat
  /-- ABC_FLAG_INDEX, legal values 0 to 4 (30_encoding.md R90, decision D12). -/
  abcFlagIndex : Fin 5
  /-- ZEROCAL_AWAITS_RESPONSE (42_commands.md R166, decision D13). -/
  zeroCalAwaitsResponse : Bool
  /-- HAS_CO2_TEMP (42_commands.md R162, decision D18). -/
  hasCo2Temp : Bool
  deriving DecidableEq, Repr

/-- The defaults of 00_scope.md R7. -/
def Config.default : Config where
  retryCeiling := 10
  attemptCounting := .allCalls
  openVersionTries := 10
  abcFlagIndex := 4
  zeroCalAwaitsResponse := true
  hasCo2Temp := true

/-! The free values (logs 6 and 13 to 16). Each is applied to the counter `draws` of State, which moves on at
every use, and to a place number that tells apart the values one draw supplies. -/

/-- A free byte. -/
opaque Config.freeByte : Nat → Nat → Byte
/-- A free 16-bit value. -/
opaque Config.freeHalf : Nat → Nat → Half
/-- A free bit. -/
opaque Config.freeBool : Nat → Nat → Bool
/-- A free count; where it is used it is cut to the range the spec gives. -/
opaque Config.freeNat : Nat → Nat → Nat
/-- Free contents of a frame buffer. -/
opaque Config.freeFrame : Nat → Nat → Frame
/-- Free contents of the result bytes. -/
opaque Config.freePayload : Nat → Payload
/-- The bytes the far end happens to put into the channel's input buffer during one channel call. -/
opaque Config.freeArrivals : Nat → List Byte

end Sys2Proof
end

