-- ==== Sys2Proof/WellFormed.lean ====
section
/-!
DEFINITION. Well-formedness of the syntax: host requests, exchange operands, parameters. An Instr has only
one-bit operands, so no Instr is ill-formed (30_encoding.md R88: every request operand is one bit at most).
-/

namespace Sys2Proof

/-- The host's code is one of the eight operations (30_encoding.md R94). -/
def HostReq.wf (r : HostReq) : Bool := decide (r.op.toNat < 8)

/-- At most five request payload bytes and a response width of 0 to 6 (41_transceiver.md R130). -/
def ExchangeReq.wf (r : ExchangeReq) : Bool := decide (r.payload.length ≤ 5) && decide (r.width ≤ 6)

/-- RETRY_CEILING is at least 1 (decision D6); the other parameters are legal by their types. -/
def Config.wf (c : Config) : Bool := decide (1 ≤ c.retryCeiling)

/-- Every instruction is well-formed: its operands are single bits and both values of each are legal
(00_scope.md R17: any of the eight operations, with either value of `arg`). -/
def Instr.wf : Instr → Bool
  | .readCo2 => true
  | .readTemp => true
  | .setAbcOn => true
  | .setAbcOff => true
  | .getAbc => true
  | .zeroCal => true
  | .getVersion => true
  | .openHandle _ => true
  | .closeHandle => true

end Sys2Proof
end

