-- ==== Sys2Proof/Decode.lean ====
section
/-!
DEFINITION. Decoding and encoding: the host operation codes (30_encoding.md R94), the seven request frames
(30_encoding.md R88), and the exchange operands of each command (the catalogue, R88).
-/

namespace Sys2Proof

/-! ## Host operation codes -/

/-- The instruction a host request selects (30_encoding.md R94); codes 0x8 to 0xF are no operation. -/
def decodeHost (r : HostReq) : Except DecodeError Instr :=
  match r.op.toNat with
  | 0 => .ok (.openHandle r.arg)
  | 1 => .ok .closeHandle
  | 2 => .ok .readCo2
  | 3 => .ok .readTemp
  | 4 => .ok (if r.arg then .setAbcOn else .setAbcOff)
  | 5 => .ok .getAbc
  | 6 => .ok .zeroCal
  | 7 => .ok .getVersion
  | _ => .error .noSuchOperation

/-- The host request that selects an instruction; an ignored `arg` is written 0 (30_encoding.md R94, R95). -/
def encodeHost : Instr → HostReq
  | .openHandle v => { op := 0x0, arg := v }
  | .closeHandle => { op := 0x1, arg := false }
  | .readCo2 => { op := 0x2, arg := false }
  | .readTemp => { op := 0x3, arg := false }
  | .setAbcOn => { op := 0x4, arg := true }
  | .setAbcOff => { op := 0x4, arg := false }
  | .getAbc => { op := 0x5, arg := false }
  | .zeroCal => { op := 0x6, arg := false }
  | .getVersion => { op := 0x7, arg := false }

/-- A host request as one byte: `op` in bits 3:0, `arg` in bit 4 (DESIGN CHOICE, log 3). -/
def hostWord (r : HostReq) : Byte :=
  BitVec.ofNat 8 (r.op.toNat + (if r.arg then 16 else 0))

/-- The instruction of a host word: the inverse of `hostWord`, and a refusal if a bit above `arg` is set. -/
def decodeHostWord (b : Byte) : Except DecodeError Instr :=
  if 32 ≤ b.toNat then .error .strayHostBits
  else decodeHost { op := BitVec.ofNat 4 (b.toNat % 16), arg := decide (16 ≤ b.toNat) }

/-! ## The catalogue and the request frames -/

/-! The exchange each command makes: opcode, request payload, response width in the source's table
(30_encoding.md R88, R89). -/

/-- READ_CO2: opcode 0x86, no payload, width 3 (30_encoding.md R88). -/
def exchangeReadCo2 : ExchangeReq := { cmd := 0x86, payload := [], width := 3 }
/-- READ_TEMP: opcode 0x85, no payload, width 4 (30_encoding.md R88). -/
def exchangeReadTemp : ExchangeReq := { cmd := 0x85, payload := [], width := 4 }
/-- SET_ABC on: opcode 0x79, payload byte 0xA0, width 0 (30_encoding.md R88, R89). -/
def exchangeSetAbcOn : ExchangeReq := { cmd := 0x79, payload := [0xA0], width := 0 }
/-- SET_ABC off: opcode 0x79, payload byte 0x00, width 0 (30_encoding.md R88, R89). -/
def exchangeSetAbcOff : ExchangeReq := { cmd := 0x79, payload := [0x00], width := 0 }
/-- GET_ABC: opcode 0x7D, no payload, width 6 (30_encoding.md R88, R90). -/
def exchangeGetAbc : ExchangeReq := { cmd := 0x7D, payload := [], width := 6 }
/-- ZERO_CAL: opcode 0x87, no payload, width 0 (30_encoding.md R88). -/
def exchangeZeroCal : ExchangeReq := { cmd := 0x87, payload := [], width := 0 }
/-- GET_VERSION: opcode 0xA0, no payload, width 4 (30_encoding.md R88). -/
def exchangeGetVersion : ExchangeReq := { cmd := 0xA0, payload := [], width := 4 }
/-- One try of OPEN's version probe: `EXCHANGE(0xA0, [], 0, 4)` (43_handle.md R192). -/
def exchangeProbe : ExchangeReq := { cmd := 0xA0, payload := [], width := 4 }

/-- The catalogue: the exchange of each command; OPEN and CLOSE have no frame of their own (30_encoding.md R88, R96). -/
def exchangeOf : Instr → Option ExchangeReq
  | .readCo2 => some exchangeReadCo2
  | .readTemp => some exchangeReadTemp
  | .setAbcOn => some exchangeSetAbcOn
  | .setAbcOff => some exchangeSetAbcOff
  | .getAbc => some exchangeGetAbc
  | .zeroCal => some exchangeZeroCal
  | .getVersion => some exchangeGetVersion
  | .openHandle _ => none
  | .closeHandle => none

/-- One of the six sensor commands, that is, not OPEN and not CLOSE (30_encoding.md R88). -/
def Instr.isCommand (i : Instr) : Bool := (exchangeOf i).isSome

/-- The request frames as the table of 30_encoding.md R88 writes them out. -/
def requestFrame : Instr → Option Frame
  | .readCo2 => some #v[0xFF, 0x01, 0x86, 0x00, 0x00, 0x00, 0x00, 0x00, 0x79]
  | .readTemp => some #v[0xFF, 0x01, 0x85, 0x00, 0x00, 0x00, 0x00, 0x00, 0x7A]
  | .setAbcOn => some #v[0xFF, 0x01, 0x79, 0xA0, 0x00, 0x00, 0x00, 0x00, 0xE6]
  | .setAbcOff => some #v[0xFF, 0x01, 0x79, 0x00, 0x00, 0x00, 0x00, 0x00, 0x86]
  | .getAbc => some #v[0xFF, 0x01, 0x7D, 0x00, 0x00, 0x00, 0x00, 0x00, 0x82]
  | .zeroCal => some #v[0xFF, 0x01, 0x87, 0x00, 0x00, 0x00, 0x00, 0x00, 0x78]
  | .getVersion => some #v[0xFF, 0x01, 0xA0, 0x00, 0x00, 0x00, 0x00, 0x00, 0x5F]
  | .openHandle _ => none
  | .closeHandle => none

/-- All the request frames the block can ever send (30_encoding.md R88). -/
def catalogueFrames : List Frame :=
  [.readCo2, .readTemp, .setAbcOn, .setAbcOff, .getAbc, .zeroCal, .getVersion].filterMap requestFrame

/-- The command of a request: opcode in frame byte 2, and payload byte 0 tells SET_ABC on from off
(30_encoding.md R85, R89); every other payload byte is zero (R86). -/
def decodeCommand (cmd p0 p1 p2 p3 p4 : Byte) : Except DecodeError Instr :=
  if ¬ (p1 = 0x00 ∧ p2 = 0x00 ∧ p3 = 0x00 ∧ p4 = 0x00) then .error .badPayload
  else if cmd = 0x79 then
    if p0 = 0xA0 then .ok .setAbcOn
    else if p0 = 0x00 then .ok .setAbcOff
    else .error .badPayload
  else if p0 ≠ 0x00 then .error .badPayload
  else if cmd = 0x86 then .ok .readCo2
  else if cmd = 0x85 then .ok .readTemp
  else if cmd = 0x7D then .ok .getAbc
  else if cmd = 0x87 then .ok .zeroCal
  else if cmd = 0xA0 then .ok .getVersion
  else .error .unknownCommand

/-- The instruction whose request frame this is; every other nine bytes are rejected by name. -/
def decodeFrame (f : Frame) : Except DecodeError Instr :=
  if f[0] ≠ 0xFF then .error .badStart
  else if f[1] ≠ 0x01 then .error .badReserved
  else if Machine.checksum f ≠ f[8] then .error .badChecksum
  else decodeCommand f[2] f[3] f[4] f[5] f[6] f[7]

/-! ## Bytes -/

/-- Decoding, total on any bytes: one byte is a host word, nine are a request frame. -/
def decode : List Byte → Except DecodeError Instr
  | [b] => decodeHostWord b
  | [b0, b1, b2, b3, b4, b5, b6, b7, b8] => decodeFrame #v[b0, b1, b2, b3, b4, b5, b6, b7, b8]
  | _ => .error .wrongLength

/-- The bytes of an instruction as the opcode table gives them: a command's request frame, or the host word of
OPEN and CLOSE. -/
def encode (i : Instr) : List Byte :=
  match requestFrame i with
  | some f => f.toList
  | none => [hostWord (encodeHost i)]

/-! ## The table's words -/

/-- Byte `i` of a 72-bit number whose byte 0 is the most significant (00_scope.md R10). -/
def tableByte (w i : Nat) : Byte := BitVec.ofNat 8 (w / 2 ^ (64 - 8 * i))

/-- Byte `i` of a 72-bit number whose byte 0 is the least significant. -/
def serialByte (w i : Nat) : Byte := BitVec.ofNat 8 (w / 2 ^ (8 * i))

/-- The nine bytes of a 72-bit number, under one of the two numberings. -/
def nineBytes (byte : Nat → Nat → Byte) (w : Nat) : List Byte :=
  [byte w 0, byte w 1, byte w 2, byte w 3, byte w 4, byte w 5, byte w 6, byte w 7, byte w 8]

/-- The instruction of a table word. A 72-bit word is read as the table writes it (byte 0 most significant,
00_scope.md R10) and, where that is no request frame, with byte 0 least significant; no word is a frame under
both (log 3). A word of at most 8 bits is a host word. -/
def decodeTableWord (nbits w : Nat) : Option Instr :=
  if 2 ^ nbits ≤ w then none
  else if nbits = 72 then
    match decode (nineBytes tableByte w) with
    | .ok i => some i
    | .error _ => (decode (nineBytes serialByte w)).toOption
  else if nbits ≤ 8 then (decode [BitVec.ofNat 8 w]).toOption
  else none

end Sys2Proof
end

