-- ==== Sys2Proof/Machine/State.lean ====
section
/-!
DEFINITION. The state of MHZ19-FCT (10_state.md), the channel it is attached to (10_state.md R39,
60_exceptions.md R226), the reasons a step can stop, and the state after reset (10_state.md R41).
-/

namespace Sys2Proof.Machine

/-- The handle state `hs` (10_state.md R21). -/
inductive HandleState where
  /-- CLOSED_NEW: never opened. -/
  | closedNew
  /-- OPEN. -/
  | opened
  /-- CLOSED_DONE: closed after having been open. -/
  | closedDone
  deriving DecidableEq, Repr

/-- The sequencing register `phase` (10_state.md R27). -/
inductive Phase where
  | idle
  | chOpen
  | flush
  | write
  | read
  | decode
  | chClose
  deriving DecidableEq, Repr

/-- The outcome of an operation as the host reads it in `status` (10_state.md R33, 60_exceptions.md R210). -/
inductive Status where
  | ok
  | channelOpenError
  | notOpen
  | writeError
  | readTimeout
  | checksumMismatch
  /-- Reserved: it has a name and a code and nothing raises it (60_exceptions.md R217). -/
  | unexpectedResponse
  | alreadyClosed
  deriving DecidableEq, Repr

/-- The named errors with the fields they record (60_exceptions.md R210): the argument of `raise`. -/
inductive OpError where
  | channelOpenError
  | notOpen
  | writeError
  | readTimeout
  | checksumMismatch (m : Mismatch)
  /-- Reserved; no meaning raises it (60_exceptions.md R217). -/
  | unexpectedResponse
  | alreadyClosed
  deriving DecidableEq, Repr

/-- What happens on the line up to the return of a channel call: bytes the far end adds to the back of the input
buffer, and how many bytes of the output buffer the line carries away (10_state.md R39; log 9). -/
structure LineEvent where
  arrive  : List Byte
  carried : Nat
  deriving DecidableEq, Repr

/-- The channel (10_state.md R39). -/
structure Channel where
  /-- Whether the channel is established, changed by ChOpen and ChClose. -/
  established : Bool
  /-- Bytes that have arrived and have not been read, oldest first. -/
  inBuf : List Byte
  /-- Bytes ChWrite accepted that the line has not yet carried, oldest first. -/
  outBuf : List Byte
  deriving DecidableEq, Repr

/-- One answer of the channel to one call (60_exceptions.md R226, 41_transceiver.md R144). Counts are integers so
that an answer outside the contract can be written down (decision D9). -/
inductive ChAnswer where
  /-- ChOpen answers `ok` or `fail`. -/
  | opened (ok : Bool)
  /-- ChFlush returns. -/
  | flushed (e : LineEvent)
  /-- ChWrite returns a count. -/
  | wrote (count : Int) (e : LineEvent)
  /-- ChRead returns a count; the bytes are the oldest unread ones. -/
  | gave (count : Int) (e : LineEvent)
  /-- ChClose returns. -/
  | closed
  /-- An error return, which the contract does not know (decision D9). -/
  | failed
  /-- The call never returns (93_implementation_defined.md U9). -/
  | never
  deriving DecidableEq, Repr

/-- A channel call made, with what the block passed and what it got: the observation of 00_scope.md R16. -/
inductive ChCall where
  | open (ok : Bool)
  | flush
  | write (bytes : Frame) (count : Nat)
  | read (size : Nat) (got : List Byte)
  /-- `drain_output()`, in the contract and called by no rule (20_memory.md R63). -/
  | drain
  | close
  deriving DecidableEq, Repr

/-- The handle registers, which persist across operations (10_state.md R20). -/
structure HandleRegs where
  /-- `hs` (R21). -/
  hs : HandleState
  /-- `verbose` (R22). -/
  verbose : Bool
  /-- `ver_valid` (R23). -/
  verValid : Bool
  /-- `ver[0..=3]` (R23). -/
  ver : Version
  deriving DecidableEq, Repr

/-- The frame buffers and the counters, unspecified after any completion (10_state.md R20, R26). -/
structure FrameRegs where
  /-- `txf[0..=8]` (R24). -/
  txf : Frame
  /-- `rxf[0..=8]` (R25). -/
  rxf : Frame
  /-- `rx_cnt` (R28). -/
  rxCnt : Nat
  /-- `att` (R29). -/
  att : Nat
  /-- `probe_cnt` (R30). -/
  probeCnt : Nat
  deriving DecidableEq, Repr

/-- The operation latches (10_state.md R31). -/
structure Latches where
  /-- `cur_op`. -/
  op : HostOp
  /-- `cur_arg`. -/
  arg : Bool
  /-- `cur_cmd`. -/
  cmd : Byte
  /-- `cur_pl`. -/
  pl : List Byte
  /-- `cur_len`. -/
  len : Nat
  /-- `cur_width`. -/
  width : Nat
  deriving DecidableEq, Repr

/-- `cs_exp` and `cs_act` (10_state.md R34). -/
structure ChecksumRegs where
  csExp : Byte
  csAct : Byte
  deriving DecidableEq, Repr

/-- The raw result of an exchange (10_state.md R35). -/
structure ResultRegs where
  /-- `res_len`. -/
  resLen : Nat
  /-- `res[0..=4]`. -/
  res : Payload
  /-- `rcmd`. -/
  rcmd : Byte
  deriving DecidableEq, Repr

/-- The typed result registers (10_state.md R36). -/
structure Readings where
  /-- `co2_ppm`. -/
  co2Ppm : Half
  /-- `temp_c`, nine bits in two's complement. -/
  tempC : BitVec 9
  /-- `temp_valid`. -/
  tempValid : Bool
  /-- `temp_raw`. -/
  tempRaw : Half
  /-- `abc_on`. -/
  abcOn : Bool
  deriving DecidableEq, Repr

/-- The machine: the block's registers in the groups of 10_state.md R20, and its surroundings. -/
structure State where
  /-- The handle registers. -/
  handle : HandleRegs
  /-- `phase` (R27). -/
  phase : Phase
  /-- The frame buffers and counters. -/
  frames : FrameRegs
  /-- The operation latches. -/
  cur : Latches
  /-- `status` (R33). -/
  status : Status
  /-- `cs_exp`, `cs_act`. -/
  sums : ChecksumRegs
  /-- `res_len`, `res`, `rcmd`. -/
  raw : ResultRegs
  /-- The typed results. -/
  typed : Readings
  /-- How many completion events the block has signalled (`done`, 92_eei_decisions.md D2). -/
  done : Nat
  /-- The channel (R39). -/
  chan : Channel
  /-- The channel's coming answers in call order; when none is left an answer is a free value (log 6). -/
  script : List ChAnswer
  /-- What the host will present, in order (43_handle.md R196). -/
  hostIn : List HostEvent
  /-- The channel calls made so far, in order (00_scope.md R16). -/
  calls : List ChCall
  /-- The parameters (00_scope.md R7); no step writes them (log 5). -/
  cfg : Config
  /-- How many free values have been drawn: the model's own counter (log 6). -/
  draws : Nat
  deriving DecidableEq, Repr

/-- Why the machine stops with a fault. -/
inductive Fault where
  /-- Raised by a channel call that never returns: the block has no step and cannot leave
  (93_implementation_defined.md U9, 41_transceiver.md R141). Safe: the model stops where the block hangs. -/
  | channelCallNeverReturns
  deriving DecidableEq, Repr

/-- Why a step is refused: behaviour to which the spec gives no meaning (00_scope.md R9). -/
inductive Refusal where
  /-- An instruction the model gives no meaning; raised by `exec` only, and by no arm of this model. Safe. -/
  | notModelled (mnemonic : String)
  /-- Raised by OPEN when `hs` is not CLOSED_NEW (43_handle.md R195, decision D16). Safe. -/
  | openWhenNotNew
  /-- Raised by ENCODE for more than five payload bytes (40_codec.md R113 c, decision D27). Safe. -/
  | payloadTooLong
  /-- Raised by a channel call whose answer is outside the contract (41_transceiver.md R144, decision D9). Safe. -/
  | channelContract
  /-- Raised by a channel call made while the channel is not established, to which the contract of
  60_exceptions.md R226 gives no answer (log 10). Safe. -/
  | channelNotEstablished
  /-- Raised by `step` for host codes 0x8 to 0xF (30_encoding.md R94, decision D36). Safe. -/
  | noSuchOperation
  deriving DecidableEq, Repr

/-- The machine right after reset (10_state.md R41). The registers R41 marks unspecified hold the values of log 11;
the surroundings hold those of log 12; the parameters are the defaults of 00_scope.md R7 (log 5). -/
def State.reset : State where
  handle := { hs := .closedNew, verbose := false, verValid := false, ver := #v[0x00, 0x00, 0x00, 0x00] }
  phase := .idle
  frames :=
    { txf := #v[0x00, 0x00, 0x00, 0x00, 0x00, 0x00, 0x00, 0x00, 0x00]
      rxf := #v[0x00, 0x00, 0x00, 0x00, 0x00, 0x00, 0x00, 0x00, 0x00]
      rxCnt := 0, att := 0, probeCnt := 0 }
  cur := { op := .openOp, arg := false, cmd := 0x00, pl := [], len := 0, width := 0 }
  status := .ok
  sums := { csExp := 0x00, csAct := 0x00 }
  raw := { resLen := 0, res := #v[0x00, 0x00, 0x00, 0x00, 0x00], rcmd := 0x00 }
  typed := { co2Ppm := 0x0000, tempC := 0, tempValid := false, tempRaw := 0x0000, abcOn := false }
  done := 0
  chan := { established := false, inBuf := [], outBuf := [] }
  script := []
  hostIn := []
  calls := []
  cfg := Config.default
  draws := 0

end Sys2Proof.Machine
end

