-- ==== Sys2Proof/Machine/Channel.lean ====
section
/-!
DEFINITION. The channel calls (00_scope.md R13, 60_exceptions.md R226), over the channel's input and output buffers
(10_state.md R39). Each call takes the next answer of the script, or a free one when the script is used up.
-/

namespace Sys2Proof.Machine

/-- Go on with the state (and answer) of a first part that answers next; a stop of the first part is a stop. -/
def andThen {α β : Type} (x : Host.Outcome α Fault Refusal) (f : α → Host.Outcome β Fault Refusal) :
    Host.Outcome β Fault Refusal :=
  match x with
  | .next a => f a
  | .fault r => .fault r
  | .refused r => .refused r

/-- A free line event (log 6). -/
def freeEvent (d : Nat) : LineEvent := { arrive := Config.freeArrivals d, carried := Config.freeNat d 0 }

/-- The next answer of the channel: the head of the script, or `free` when the script is used up, which counts as
one draw (41_transceiver.md R144, 93_implementation_defined.md U24; log 6). -/
def nextAnswer (free : ChAnswer) (s : State) : ChAnswer × State :=
  match s.script with
  | [] => (free, { s with draws := s.draws + 1 })
  | a :: rest => (a, { s with script := rest })

/-- Bytes arrive at the back of the input buffer; the line carries bytes away from the front of the output buffer
(10_state.md R39). -/
def Channel.move (c : Channel) (e : LineEvent) : Channel :=
  { c with inBuf := c.inBuf ++ e.arrive, outBuf := c.outBuf.drop e.carried }

/-- A call returned: it is recorded, and the channel is as `c` says. -/
def State.called (s : State) (k : ChCall) (c : Channel) : State :=
  { s with calls := s.calls ++ [k], chan := c }

/-- `ChOpen()`: answers `ok` or `fail`, and the channel is established after `ok` (60_exceptions.md R226). DESIGN
CHOICE (log 31): after `fail` the channel is as it was, still established if it stood established from before a reset,
of which the spec says only "none the block knows of" (60_exceptions.md R221); and neither answer touches the buffers. -/
def chOpen (s : State) : Host.Outcome (Bool × State) Fault Refusal :=
  let r := nextAnswer (.opened (Config.freeBool s.draws 0)) s
  match r.1 with
  | .opened ok => .next (ok, r.2.called (.open ok) { s.chan with established := ok || s.chan.established })
  | .never => .fault .channelCallNeverReturns
  | _ => .refused .channelContract

/-- `ChClose()`: releases the channel; it cannot fail (43_handle.md R193). DESIGN CHOICE (logs 9 and 31): nothing
arrives or is carried away during the call, and the buffers stay as they were. -/
def chClose (s : State) : Host.Outcome State Fault Refusal :=
  if s.chan.established then
    let r := nextAnswer .closed s
    match r.1 with
    | .closed => .next (r.2.called .close { s.chan with established := false })
    | .never => .fault .channelCallNeverReturns
    | _ => .refused .channelContract
  else .refused .channelNotEstablished

/-- `ChFlush()`: every byte in the input buffer is discarded; bytes that arrive after that are kept, and the output
side is not touched by the flush (20_memory.md R62). -/
def chFlush (s : State) : Host.Outcome State Fault Refusal :=
  if s.chan.established then
    let r := nextAnswer (.flushed (freeEvent s.draws)) s
    match r.1 with
    | .flushed e => .next (r.2.called .flush (({ s.chan with inBuf := [] } : Channel).move e))
    | .never => .fault .channelCallNeverReturns
    | _ => .refused .channelContract
  else .refused .channelNotEstablished

/-- `ChWrite(txf[0..=8])`: the channel accepts a leading part of the nine bytes, in order, and answers how many; a
count outside 0 to 9 is outside the contract (41_transceiver.md R144). -/
def chWrite (s : State) : Host.Outcome (Nat × State) Fault Refusal :=
  if s.chan.established then
    let r := nextAnswer (.wrote (min (Config.freeNat s.draws 1) 9 : Nat) (freeEvent s.draws)) s
    match r.1 with
    | .wrote count e =>
      if 0 ≤ count ∧ count ≤ 9 then
        .next (count.toNat, r.2.called (.write s.frames.txf count.toNat)
          (({ s.chan with outBuf := s.chan.outBuf ++ s.frames.txf.toList.take count.toNat } : Channel).move e))
      else .refused .channelContract
    | .never => .fault .channelCallNeverReturns
    | _ => .refused .channelContract
  else .refused .channelNotEstablished

/-- `ChRead(n)`: the channel answers a count `k` of 0 to `n` and gives the `k` oldest unread bytes in order; it cannot
give bytes that have not arrived (41_transceiver.md R144, 60_exceptions.md R226). -/
def chRead (n : Nat) (s : State) : Host.Outcome (List Byte × State) Fault Refusal :=
  if s.chan.established then
    let e0 := freeEvent s.draws
    let r := nextAnswer
      (.gave (min (Config.freeNat s.draws 1) (min n (s.chan.move e0).inBuf.length) : Nat) e0) s
    match r.1 with
    | .gave count e =>
      let c := s.chan.move e
      if 0 ≤ count ∧ count ≤ n ∧ count ≤ c.inBuf.length then
        let d := c.inBuf.take count.toNat
        .next (d, r.2.called (.read n d) { c with inBuf := c.inBuf.drop count.toNat })
      else .refused .channelContract
    | .never => .fault .channelCallNeverReturns
    | _ => .refused .channelContract
  else .refused .channelNotEstablished

/-- `ChDrain()`: every byte written has left. In the contract and called by no meaning (20_memory.md R63). -/
def chDrain (s : State) : Host.Outcome State Fault Refusal :=
  if s.chan.established then .next (s.called .drain { s.chan with outBuf := [] })
  else .refused .channelNotEstablished

/-- `TXS`: the bytes the block has handed to `ChWrite`, in order (20_memory.md R50). -/
def State.txs (s : State) : List Byte :=
  s.calls.flatMap fun
    | .write f _ => f.toList
    | _ => []

/-- `RXS` after a call: a flush empties it, a read appends the bytes it hands to the block, and no other call reaches it
(10_state.md R38, 20_memory.md R50). -/
def rxsAfter (bs : List Byte) : ChCall → List Byte
  | .flush => []
  | .read _ got => bs ++ got
  | .open _ => bs
  | .write _ _ => bs
  | .drain => bs
  | .close => bs

/-- `RXS`, the receive stream: the bytes `ChRead` has handed to the block since `ChFlush` last emptied it, in order
(10_state.md R38, 20_memory.md R50). -/
def State.rxs (s : State) : List Byte := s.calls.foldl rxsAfter []

/-- Every byte `ChRead` has handed to the block, over all exchanges: a view of the record (log 23). -/
def State.allRead (s : State) : List Byte :=
  s.calls.flatMap fun
    | .read _ got => got
    | _ => []

end Sys2Proof.Machine
end

