-- ==== Sys2Proof/Machine/Flags.lean ====
section
/-!
DEFINITION. The flag-like state: `busy`, the codes of `status`, and which status an error sets (10_state.md R32, R33;
60_exceptions.md R210). The block has no arithmetic flags (10_state.md R33).
-/

namespace Sys2Proof.Machine

/-- `busy = (phase != IDLE)` (10_state.md R32). -/
def State.busy (s : State) : Bool := decide (s.phase ≠ .idle)

/-- The 4-bit code the host reads in `status` (60_exceptions.md R210). -/
def Status.code : Status → BitVec 4
  | .ok => 0x0
  | .channelOpenError => 0x1
  | .notOpen => 0x2
  | .writeError => 0x3
  | .readTimeout => 0x4
  | .checksumMismatch => 0x5
  | .unexpectedResponse => 0x6
  | .alreadyClosed => 0x7

/-- The status an error sets (60_exceptions.md R220). -/
def OpError.status : OpError → Status
  | .channelOpenError => .channelOpenError
  | .notOpen => .notOpen
  | .writeError => .writeError
  | .readTimeout => .readTimeout
  | .checksumMismatch _ => .checksumMismatch
  | .unexpectedResponse => .unexpectedResponse
  | .alreadyClosed => .alreadyClosed

end Sys2Proof.Machine
end

