-- ==== Sys2Proof/Machine/Operands.lean ====
section
/-!
DEFINITION. Operand forms: how response fields are assembled from payload bytes (30_encoding.md R87), the slice of
the response width (41_transceiver.md R138), the placing of received bytes (41_transceiver.md R133), and the views
of the typed results (42_commands.md R162, R163).
-/

namespace Sys2Proof.Machine

/-- `u16be(h, l) = 256*h + l`, the byte at the lower payload index being the more significant
(00_scope.md R12, 20_memory.md R53). -/
def u16be (h l : Byte) : Half := BitVec.ofNat 16 (256 * h.toNat + l.toNat)

/-- The READ_CO2 temperature: the byte taken unsigned, minus 40, in nine bits of two's complement
(42_commands.md R162, R168 c). -/
def tempOfByte (b : Byte) : BitVec 9 := BitVec.ofInt 9 ((b.toNat : Int) - 40)

/-- Any non-zero byte means on (42_commands.md R165). -/
def flagOfByte (b : Byte) : Bool := decide (b ≠ 0x00)

/-- The effective response width `min(w, 5)` (30_encoding.md R90). -/
def effectiveWidth (w : Nat) : Nat := min w 5

/-- The leading `n` bytes of the response payload over the result bytes; the rest is not written
(41_transceiver.md R138). -/
def storeResult (n : Nat) (rpay old : Payload) : Payload :=
  #v[if 0 < n then rpay[0] else old[0], if 1 < n then rpay[1] else old[1],
    if 2 < n then rpay[2] else old[2], if 3 < n then rpay[3] else old[3],
    if 4 < n then rpay[4] else old[4]]

/-- `ver[i] <- r[i]`, four raw bytes (42_commands.md R167). -/
def versionOf (r : Payload) : Version := #v[r[0], r[1], r[2], r[3]]

/-- Append received bytes at rising indices from `i` on (41_transceiver.md R133, 20_memory.md R61). -/
def storeBytes (f : Frame) (i : Nat) : List Byte → Frame
  | [] => f
  | b :: bs => storeBytes (f.setIfInBounds i b) (i + 1) bs

/-- What a read call that returned `k` bytes is charged against the ceiling (41_transceiver.md R134). -/
def charge (m : AttemptCounting) (k : Nat) : Nat :=
  match m with
  | .allCalls => 1
  | .zeroReturnsOnly => if k = 0 then 1 else 0

/-- The temperature of READ_CO2 in degrees Celsius (42_commands.md R162). -/
def State.celsius (s : State) : Int := s.typed.tempC.toInt

/-- The temperature of READ_TEMP: the exact rational `temp_raw / 100` degrees Celsius (42_commands.md R163). -/
def State.celsiusExact (s : State) : Rat := mkRat s.typed.tempRaw.toNat 100

/-- The raw result: `res[0..=res_len-1]` (10_state.md R35). -/
def State.result (s : State) : List Byte := s.raw.res.toList.take s.raw.resLen

end Sys2Proof.Machine
end

