-- ==== Sys2Proof/Machine/Ops.lean ====
section
/-!
DEFINITION. The shared operations on the registers: taking an error (60_exceptions.md R220), completing with OK,
what becomes unspecified at a completion (10_state.md R26, R34, R35; 93_implementation_defined.md U15, U16), the
operation latches (10_state.md R31) and the start of an exchange (41_transceiver.md R143).
-/

namespace Sys2Proof.Machine

/-! ## What a completion leaves unspecified

DESIGN CHOICE (log 32): each free value is a function of the counter `draws`, so two runs that have drawn equally often
hold the same value in an unspecified register. The spec says only that such a register holds no value. -/

/-- The frame buffers and counters are unspecified after any completion (10_state.md R26, 60_exceptions.md R221):
free values, the counters within their ranges (R28 to R30; logs 15 and 32). -/
def freeFrames (c : Config) (d : Nat) : FrameRegs :=
  { txf := Config.freeFrame d 0
    rxf := Config.freeFrame d 1
    rxCnt := min (Config.freeNat d 0) 9
    att := min (Config.freeNat d 1) c.retryCeiling
    probeCnt := min (Config.freeNat d 2) c.openVersionTries }

/-- `res`, `res_len`, `rcmd` where they are unspecified (10_state.md R35): free values, `res_len` within 0 to 5
(logs 13, 16 and 32). -/
def freeResult (d : Nat) : ResultRegs :=
  { resLen := min (Config.freeNat d 3) 5, res := Config.freePayload d, rcmd := Config.freeByte d 0 }

/-- The typed results where they are unspecified (92_eei_decisions.md D26, 70_reset_and_hazards.md R260): free
values, `temp_c` within -40 to 215 (logs 13 and 32). -/
def freeReadings (d : Nat) : Readings :=
  { co2Ppm := Config.freeHalf d 0
    tempC := tempOfByte (Config.freeByte d 1)
    tempValid := Config.freeBool d 0
    tempRaw := Config.freeHalf d 1
    abcOn := Config.freeBool d 1 }

/-- `cs_exp` and `cs_act`, unspecified after every completion but ChecksumMismatch (10_state.md R34): free values
(logs 14 and 32). -/
def freeSums (d : Nat) : ChecksumRegs := { csExp := Config.freeByte d 2, csAct := Config.freeByte d 3 }

/-! ## Completion and error entry -/

/-- A completion: `status` is written, the block is idle, the completion event is signalled
(10_state.md R33, 60_exceptions.md R220). -/
def finish (st : Status) (s : State) : State :=
  { s with status := st, phase := .idle, frames := freeFrames s.cfg s.draws, done := s.done + 1,
           draws := s.draws + 1 }

/-- What an error records (60_exceptions.md R210): ChecksumMismatch its two fields, every other error nothing. -/
def OpError.sums (e : OpError) (d : Nat) : ChecksumRegs :=
  match e with
  | .checksumMismatch m => { csExp := m.expected, csAct := m.actual }
  | .channelOpenError => freeSums d
  | .notOpen => freeSums d
  | .writeError => freeSums d
  | .readTimeout => freeSums d
  | .unexpectedResponse => freeSums d
  | .alreadyClosed => freeSums d

/-- Error entry `raise E(info)` (60_exceptions.md R220): the code of `E` in `status`, the fields of
ChecksumMismatch, `phase` IDLE, the completion signalled; `hs`, `verbose`, `ver`, `ver_valid` keep their values;
the result registers are unspecified (10_state.md R35; log 13). There is no return from an error (R222). -/
def raise (e : OpError) (s : State) : State :=
  finish e.status
    { s with sums := e.sums s.draws, raw := freeResult s.draws, typed := freeReadings s.draws }

/-- `complete(OK, ...)`; the results were written before (42_commands.md R160). -/
def complete (s : State) : State := finish .ok { s with sums := freeSums s.draws }

/-- OPEN's completion: `res`, `res_len`, `rcmd`, `cs_exp`, `cs_act` are unspecified after OPEN
(43_handle.md R191; log 16). -/
def completeOpen (s : State) : State := complete { s with raw := freeResult s.draws }

/-! ## Registers written between completions -/

/-- `phase <- P` (00_scope.md R13). -/
def toPhase (p : Phase) (s : State) : State := { s with phase := p }

/-- `txf[0..=8] <- f` (40_codec.md R112). -/
def loadFrame (f : Frame) (s : State) : State := { s with frames := { s.frames with txf := f } }

/-- The read phase begins: both counters are zero (41_transceiver.md R130, R143). -/
def beginRead (s : State) : State :=
  { s with frames := { s.frames with rxCnt := 0, att := 0 }, phase := .read }

/-- Received bytes are appended, counted, and the call is charged (41_transceiver.md R133, R134). -/
def accumulate (d : List Byte) (s : State) : State :=
  { s with frames := { s.frames with
      rxf := storeBytes s.frames.rxf s.frames.rxCnt d
      rxCnt := s.frames.rxCnt + d.length
      att := s.frames.att + charge s.cfg.attemptCounting d.length } }

/-- `rcmd`, `res_len` and `res` after a frame has passed DECODE (41_transceiver.md R137, R138). -/
def storeDecoded (d : Decoded) (s : State) : State :=
  { s with raw := { resLen := effectiveWidth s.cur.width
                    res := storeResult (effectiveWidth s.cur.width) d.rpay s.raw.res
                    rcmd := d.rcmd } }

/-- `cs_exp <- exp`, `cs_act <- act` (40_codec.md R114). -/
def storeMismatch (m : Mismatch) (s : State) : State :=
  { s with sums := { csExp := m.expected, csAct := m.actual } }

/-! ## Acceptance -/

/-- The latches of an accepted operation: its code, its operand bit and the operands of its exchange. What the
operation has no operand for keeps its value (log 21). -/
def Latches.accept (l : Latches) (op : HostOp) (arg : Option Bool) : Option ExchangeReq → Latches
  | none => { l with op := op, arg := arg.getD l.arg }
  | some r =>
    { op := op, arg := arg.getD l.arg, cmd := r.cmd, pl := r.payload, len := r.payload.length, width := r.width }

/-- The host's operation is accepted: all its operands are latched, and no row writes a latch, so they are constant
until it completes (10_state.md R31). -/
def latch (op : HostOp) (arg : Option Bool) (r : Option ExchangeReq) (s : State) : State :=
  { s with cur := s.cur.accept op arg r }

/-- The start row of EXCHANGE (41_transceiver.md R143): `cmd`, `pl`, `n`, `w` stand in the latches since the operation
was accepted, and the phase is FLUSH. -/
def startExchange (s : State) : State := { s with phase := .flush }

/-- What every command does first (42_commands.md R160, 43_handle.md R194): the handle must be OPEN, else NotOpen
and no channel call. -/
def beginCommand (op : HostOp) (arg : Option Bool) (r : ExchangeReq) (s : State) :
    Host.Outcome State Fault Refusal :=
  if s.handle.hs = .opened then .next (startExchange (latch op arg (some r) s))
  else .next (raise .notOpen (latch op arg (some r) s))

end Sys2Proof.Machine
end

