-- ==== Sys2Proof/Machine/Results.lean ====
section
/-!
DEFINITION. The typed interpretation each operation gives the payload of a successful exchange (42_commands.md R162
to R167). `r` of the rules is `res[0..=res_len-1]`, just written by step 5 of the exchange.
-/

namespace Sys2Proof.Machine

/-- What READ_CO2 makes of the payload (42_commands.md R162). -/
def readCo2Of (c : Config) (r : Payload) (t : Readings) : Readings :=
  if c.hasCo2Temp then { t with co2Ppm := u16be r[0] r[1], tempC := tempOfByte r[2], tempValid := true }
  else { t with co2Ppm := u16be r[0] r[1], tempValid := false }

/-- READ_CO2 (42_commands.md R162). -/
def interpretReadCo2 (s : State) : State := { s with typed := readCo2Of s.cfg s.raw.res s.typed }

/-- READ_TEMP (42_commands.md R163). -/
def interpretReadTemp (s : State) : State :=
  { s with typed := { s.typed with tempRaw := u16be s.raw.res[2] s.raw.res[3] } }

/-- GET_ABC (42_commands.md R165): the flag byte at `ABC_FLAG_INDEX`. -/
def interpretGetAbc (s : State) : State :=
  { s with typed := { s.typed with abcOn := flagOfByte s.raw.res[s.cfg.abcFlagIndex] } }

/-- GET_VERSION (42_commands.md R167), also OPEN's probe (43_handle.md R192). -/
def interpretGetVersion (s : State) : State :=
  { s with handle := { s.handle with ver := versionOf s.raw.res, verValid := true } }

/-- ZERO_CAL that awaits no response: `res_len = 0` and nothing else of the result is written
(42_commands.md R166). -/
def clearResult (s : State) : State := { s with raw := { s.raw with resLen := 0 } }

/-- OPEN with an established channel: `hs <- OPEN ; verbose <- v ; ver_valid <- 0`, and the probe begins with
`probe_cnt <- 0` (43_handle.md R191, R192). -/
def openRegs (s : State) : State :=
  { s with
    handle := { s.handle with hs := .opened, verbose := s.cur.arg, verValid := false }
    frames := { s.frames with probeCnt := 0 } }

/-- `probe_cnt <- probe_cnt + 1` (43_handle.md R192). -/
def countProbe (s : State) : State :=
  { s with frames := { s.frames with probeCnt := s.frames.probeCnt + 1 } }

/-- `hs <- CLOSED_DONE ; ver_valid <- 0` (43_handle.md R193). -/
def closeRegs (s : State) : State :=
  { s with handle := { s.handle with hs := .closedDone, verValid := false } }

/-- OPEN begins: `phase <- CH_OPEN`, and `probe_cnt` is set to 0 (43_handle.md R191, 10_state.md R30). -/
def beginProbe (s : State) : State :=
  { s with phase := .chOpen, frames := { s.frames with probeCnt := 0 } }

end Sys2Proof.Machine
end

