-- ==== Sys2Proof/Machine/Transceiver.lean ====
section
/-!
DEFINITION. EXCHANGE as the rows of the state machine (41_transceiver.md R143), with OPEN's version probe, which is
the one caller that goes on after an exchange has ended (43_handle.md R192).
-/

namespace Sys2Proof.Machine

/-- The loop test of VERSION_PROBE (43_handle.md R192): another try while `probe_cnt < OPEN_VERSION_TRIES` and no
version is cached; otherwise OPEN completes with OK. -/
def probeNext (s : State) : State :=
  if s.frames.probeCnt < s.cfg.openVersionTries ∧ s.handle.verValid = false then
    startExchange (countProbe s)
  else completeOpen s

/-- An exchange ended with an error: inside OPEN's probe it is absorbed (43_handle.md R192), otherwise it ends the
command (42_commands.md R161). -/
def exchangeFailed (e : OpError) (s : State) : State :=
  match s.cur.op with
  | .openOp => probeNext s
  | .closeOp => raise e s
  | .readCo2 => raise e s
  | .readTemp => raise e s
  | .setAbc => raise e s
  | .getAbc => raise e s
  | .zeroCal => raise e s
  | .getVersion => raise e s

/-- An exchange ended with success: the command interprets the payload and completes (42_commands.md R160). CLOSE
makes no exchange; its arm is the plain completion. -/
def exchangeSucceeded (s : State) : State :=
  match s.cur.op with
  | .openOp => probeNext (interpretGetVersion s)
  | .closeOp => complete s
  | .readCo2 => complete (interpretReadCo2 s)
  | .readTemp => complete (interpretReadTemp s)
  | .setAbc => complete s
  | .getAbc => complete (interpretGetAbc s)
  | .zeroCal => complete s
  | .getVersion => complete (interpretGetVersion s)

/-- Row FLUSH (41_transceiver.md R131). -/
def flushRow (s : State) : Host.Outcome State Fault Refusal :=
  andThen (chFlush s) fun s1 => .next (toPhase .write s1)

/-- After a whole write: the read phase begins with both counters zero (41_transceiver.md R143), unless the
operation is a ZERO_CAL that awaits no response (42_commands.md R166). -/
def exchangeWritten (s : State) : State :=
  if s.cur.op = .zeroCal ∧ s.cfg.zeroCalAwaitsResponse = false then complete (clearResult s)
  else beginRead s

/-- Row WRITE (41_transceiver.md R132): the frame is built, offered in one call, and a short count is WriteError. -/
def writeRow (s : State) : Host.Outcome State Fault Refusal :=
  match codecEncode s.cur.cmd s.cur.pl s.cur.len with
  | none => .refused .payloadTooLong
  | some f =>
    andThen (chWrite (loadFrame f s)) fun r =>
      .next (if r.1 < 9 then exchangeFailed .writeError r.2 else exchangeWritten r.2)

/-- One read call of the accumulation loop (41_transceiver.md R133 to R135). -/
def readCall (s : State) : Host.Outcome State Fault Refusal :=
  andThen (chRead (9 - s.frames.rxCnt) s) fun r => .next (accumulate r.1 r.2)

/-- Row READ: nine bytes held goes to DECODE, whatever `att` is; otherwise another call while the budget lasts, and
ReadTimeout when it is used up (41_transceiver.md R136, R143). -/
def readRow (s : State) : Host.Outcome State Fault Refusal :=
  if s.frames.rxCnt < 9 then
    if s.frames.att < s.cfg.retryCeiling then readCall s
    else .next (exchangeFailed .readTimeout s)
  else .next (toPhase .decode s)

/-- Row DECODE (41_transceiver.md R137, R138). -/
def decodeRow (s : State) : Host.Outcome State Fault Refusal :=
  match codecDecode s.frames.rxf with
  | .ok d => .next (exchangeSucceeded (storeDecoded d s))
  | .error m => .next (exchangeFailed (.checksumMismatch m) (storeMismatch m s))

end Sys2Proof.Machine
end

