-- ==== Sys2Proof/Machine/Sequencer.lean ====
section
/-!
DEFINITION. The rows of OPEN and CLOSE (43_handle.md R191, R193), the row the block takes next (10_state.md R27),
and an operation run to its completion (41_transceiver.md R140, 43_handle.md R196).
-/

namespace Sys2Proof.Machine

/-- Row CH_OPEN (43_handle.md R191): `fail` raises ChannelOpenError and leaves the handle; `ok` opens the handle and
begins the version probe. -/
def chOpenRow (s : State) : Host.Outcome State Fault Refusal :=
  andThen (chOpen s) fun r =>
    .next (if r.1 then probeNext (openRegs r.2) else raise .channelOpenError r.2)

/-- Row CH_CLOSE (43_handle.md R193). -/
def chCloseRow (s : State) : Host.Outcome State Fault Refusal :=
  andThen (chClose s) fun s1 => .next (complete (closeRegs s1))

/-- One step of the block at transaction level: one channel call or one internal test, as `phase` says
(92_eei_decisions.md D1, 41_transceiver.md R143). An idle block has no step of its own. -/
def tick (s : State) : Host.Outcome State Fault Refusal :=
  match s.phase with
  | .idle => .next s
  | .chOpen => chOpenRow s
  | .flush => flushRow s
  | .write => writeRow s
  | .read => readRow s
  | .decode => decodeRow s
  | .chClose => chCloseRow s

/-- At most `n` steps of the block, ending when it is idle. -/
def runRows : Nat → State → Host.Outcome State Fault Refusal
  | 0, s => .next s
  | n + 1, s => if s.phase = .idle then .next s else andThen (tick s) (runRows n)

/-- More steps than any operation takes: each exchange makes one flush, one write, at most `RETRY_CEILING + 9` read
calls and one decode (41_transceiver.md R141), and OPEN makes at most `OPEN_VERSION_TRIES` exchanges (log 28). -/
def rowBound (c : Config) : Nat := (c.openVersionTries + 1) * (c.retryCeiling + 16) + 2

/-- The operation in progress runs to its completion; there is no cancellation (41_transceiver.md R140). On an idle
block there is none and nothing happens. -/
def runToIdle (s : State) : Host.Outcome State Fault Refusal := runRows (rowBound s.cfg) s

/-- A host operation: held while the block is busy, then accepted, then run to its completion
(43_handle.md R196; log 2). -/
def runOperation (accept : State → Host.Outcome State Fault Refusal) (s : State) :
    Host.Outcome State Fault Refusal :=
  andThen (runToIdle s) fun s1 => andThen (accept s1) runToIdle

end Sys2Proof.Machine
end

