-- ==== Sys2Proof/Machine/Commands.lean ====
section
/-!
DEFINITION. The meanings of the six sensor commands, SET_ABC once for each value of its operand
(42_commands.md R160 to R167). The exchange operands are those of the catalogue (30_encoding.md R88); the
interpretation of the response is in Machine/Results.lean.
-/

namespace Sys2Proof.Machine

/-- READ_CO2 (42_commands.md R162). -/
def execReadCo2 (s : State) : Host.Outcome State Fault Refusal :=
  runOperation (beginCommand .readCo2 none exchangeReadCo2) s

/-- READ_TEMP (42_commands.md R163). -/
def execReadTemp (s : State) : Host.Outcome State Fault Refusal :=
  runOperation (beginCommand .readTemp none exchangeReadTemp) s

/-- SET_ABC on (42_commands.md R164): payload byte 0xA0. -/
def execSetAbcOn (s : State) : Host.Outcome State Fault Refusal :=
  runOperation (beginCommand .setAbc (some true) exchangeSetAbcOn) s

/-- SET_ABC off (42_commands.md R164): payload byte 0x00. -/
def execSetAbcOff (s : State) : Host.Outcome State Fault Refusal :=
  runOperation (beginCommand .setAbc (some false) exchangeSetAbcOff) s

/-- GET_ABC (42_commands.md R165): width 6 in the source, 5 in effect. -/
def execGetAbc (s : State) : Host.Outcome State Fault Refusal :=
  runOperation (beginCommand .getAbc none exchangeGetAbc) s

/-- ZERO_CAL (42_commands.md R166). -/
def execZeroCal (s : State) : Host.Outcome State Fault Refusal :=
  runOperation (beginCommand .zeroCal none exchangeZeroCal) s

/-- GET_VERSION (42_commands.md R167). -/
def execGetVersion (s : State) : Host.Outcome State Fault Refusal :=
  runOperation (beginCommand .getVersion none exchangeGetVersion) s

end Sys2Proof.Machine
end

