-- ==== Sys2Proof/Machine/Handle.lean ====
section
/-!
DEFINITION. The meanings of OPEN and CLOSE (43_handle.md R191, R193, R195), and the reset of an idle block
(70_reset_and_hazards.md R250).
-/

namespace Sys2Proof.Machine

/-- OPEN is accepted only by a new handle; on any other the spec gives it no meaning (43_handle.md R195). Its latches
hold the operands every exchange of its probe has (10_state.md R31, 43_handle.md R192), and `probe_cnt` is set to 0
when OPEN begins (10_state.md R30). -/
def beginOpen (verbose : Bool) (s : State) : Host.Outcome State Fault Refusal :=
  if s.handle.hs = .closedNew then .next (beginProbe (latch .openOp (some verbose) (some exchangeProbe) s))
  else .refused .openWhenNotNew

/-- CLOSE (43_handle.md R193): NotOpen on a never-opened handle, AlreadyClosed on a closed-again one. -/
def beginClose (s : State) : Host.Outcome State Fault Refusal :=
  match s.handle.hs with
  | .closedNew => .next (raise .notOpen (latch .closeOp none none s))
  | .closedDone => .next (raise .alreadyClosed (latch .closeOp none none s))
  | .opened => .next (toPhase .chClose (latch .closeOp none none s))

/-- OPEN (43_handle.md R191). -/
def execOpen (verbose : Bool) (s : State) : Host.Outcome State Fault Refusal :=
  runOperation (beginOpen verbose) s

/-- CLOSE (43_handle.md R193). -/
def execClose (s : State) : Host.Outcome State Fault Refusal := runOperation beginClose s

/-- Reset: every register of the block takes its reset value; the channel, the parameters and what the host will
present next are not touched, and no channel call is made (70_reset_and_hazards.md R250, R251). -/
def resetBlock (s : State) : State :=
  { State.reset with
    chan := s.chan, script := s.script, hostIn := s.hostIn, calls := s.calls, cfg := s.cfg,
    done := s.done, draws := s.draws }

end Sys2Proof.Machine
end

