-- ==== Sys2Proof/Machine/Dispatch.lean ====
section
/-! DEFINITION. One arm per instruction: its meaning, called directly. -/

namespace Sys2Proof.Machine

def exec (i : Instr) (s : State) : Host.Outcome State Fault Refusal :=
  match i with
  | .readCo2 => Sys2Proof.Machine.execReadCo2 s
  | .readTemp => Sys2Proof.Machine.execReadTemp s
  | .setAbcOn => Sys2Proof.Machine.execSetAbcOn s
  | .setAbcOff => Sys2Proof.Machine.execSetAbcOff s
  | .getAbc => Sys2Proof.Machine.execGetAbc s
  | .zeroCal => Sys2Proof.Machine.execZeroCal s
  | .getVersion => Sys2Proof.Machine.execGetVersion s
  | .openHandle verbose => Sys2Proof.Machine.execOpen verbose s
  | .closeHandle => Sys2Proof.Machine.execClose s

end Sys2Proof.Machine
end

