-- ==== Sys2Proof/Machine/Fetch.lean ====
section
/-!
DEFINITION. Where the next instruction comes from: the host's request port (30_encoding.md R94, 43_handle.md R196).
-/

namespace Sys2Proof.Machine

/-- What the host presents next is taken from the port. -/
def State.dropHost (s : State) : State := { s with hostIn := s.hostIn.drop 1 }

/-- The host presents `r` to an idle block, before whatever else it will present. -/
def State.present (s : State) (r : HostReq) : State :=
  { s with phase := .idle, hostIn := .request r :: s.hostIn }

/-- The host request that selects the instruction of a table word (the `host_op` and `host_arg` columns of the
opcode table); a word that is no instruction is presented as code 0xF, which is no operation. -/
def tableRequest (nbits w : Nat) : HostReq :=
  match decodeTableWord nbits w with
  | some i => encodeHost i
  | none => { op := 0xF, arg := false }

end Sys2Proof.Machine
end

