-- ==== Sys2Proof/Machine/Step.lean ====
section
/-! DEFINITION. One step of the machine (00_scope.md R16, 43_handle.md R196; log 1). -/

namespace Sys2Proof.Machine

/-- A busy block takes its next row and holds whatever the host presents. An idle block takes what the host presents
next and, if it is an operation, runs it to its completion; with nothing presented it waits. -/
def step (s : State) : Host.Outcome State Fault Refusal :=
  if s.phase = .idle then
    match s.hostIn with
    | [] => .next s
    | .reset :: _ => .next (resetBlock s.dropHost)
    | .request r :: _ =>
      match decodeHost r with
      | .ok i => exec i s.dropHost
      | .error _ => .refused .noSuchOperation
  else tick s

/-- `s` with the instruction of a table word presented by the host to an idle block, so that the next step runs it
(log 4). -/
def State.withFetchWord (s : State) (nbits w : Nat) : State := s.present (tableRequest nbits w)

end Sys2Proof.Machine
end

