-- ==== Sys2Proof/Safety.lean ====
section
/-!
DEFINITION. What counts as a safe run: the invariant of the machine, the shapes of channel behaviour the statements
speak of, and what an operation keeps.
-/

namespace Sys2Proof.Machine

/-! ## Operations and their exchanges -/

/-- The value of `cur_op` an instruction latches (10_state.md R31, 30_encoding.md R94). -/
def opOf : Instr → HostOp
  | .readCo2 => .readCo2
  | .readTemp => .readTemp
  | .setAbcOn => .setAbc
  | .setAbcOff => .setAbc
  | .getAbc => .getAbc
  | .zeroCal => .zeroCal
  | .getVersion => .getVersion
  | .openHandle _ => .openOp
  | .closeHandle => .closeOp

/-- The exchanges an operation may be making: those of its command, and for OPEN the probe's (43_handle.md R192). -/
def exchangesOf : HostOp → List ExchangeReq
  | .openOp => [exchangeProbe]
  | .closeOp => []
  | .readCo2 => [exchangeReadCo2]
  | .readTemp => [exchangeReadTemp]
  | .setAbc => [exchangeSetAbcOn, exchangeSetAbcOff]
  | .getAbc => [exchangeGetAbc]
  | .zeroCal => [exchangeZeroCal]
  | .getVersion => [exchangeGetVersion]

/-- The phases of an exchange (10_state.md R27). -/
def Phase.inExchange : Phase → Bool
  | .idle => false
  | .chOpen => false
  | .flush => true
  | .write => true
  | .read => true
  | .decode => true
  | .chClose => false

/-! ## The invariant -/

/-- The latches hold the operands of an exchange the operation in progress may make (10_state.md R31). -/
def Latches.agrees (l : Latches) : Prop :=
  ∃ r ∈ exchangesOf l.op, l.cmd = r.cmd ∧ l.pl = r.payload ∧ l.len = r.payload.length ∧ l.width = r.width

/-- The phases and the handle state agree (43_handle.md R190, 60_exceptions.md R226): exchanges and CH_CLOSE only on
an open handle, CH_OPEN only on a new one; and the operation in progress is one that has the phase, with its operands
in the latches (10_state.md R31). -/
def PhaseAgrees (s : State) : Prop :=
  match s.phase with
  | .idle => True
  | .chOpen => s.handle.hs = .closedNew ∧ s.cur.op = .openOp ∧ s.cur.agrees
  | .flush => s.handle.hs = .opened ∧ s.cur.agrees
  | .write => s.handle.hs = .opened ∧ s.cur.agrees
  | .read => s.handle.hs = .opened ∧ s.cur.agrees
  | .decode => s.handle.hs = .opened ∧ s.cur.agrees
  | .chClose => s.handle.hs = .opened ∧ s.cur.op = .closeOp

/-- The invariant of the machine: registers within the ranges 10_state.md gives them, the reserved error never in
`status` (60_exceptions.md R217), the channel established while the handle is open (10_state.md R40), and on the
channel nothing but the seven request frames of 30_encoding.md R88 and no ChDrain (20_memory.md R63). That the ranges
hold where the spec leaves a register unspecified, after a completion and at reset, is the model's choice (logs 30
and 11). -/
structure State.Inv (s : State) : Prop where
  rxCnt : s.frames.rxCnt ≤ 9
  att : s.frames.att ≤ s.cfg.retryCeiling
  probeCnt : s.frames.probeCnt ≤ s.cfg.openVersionTries
  resLen : s.raw.resLen ≤ 5
  tempC : -40 ≤ s.typed.tempC.toInt ∧ s.typed.tempC.toInt ≤ 215
  status : s.status ≠ .unexpectedResponse
  established : s.handle.hs = .opened → s.chan.established = true
  phase : PhaseAgrees s
  frames : ∀ f n, ChCall.write f n ∈ s.calls → f ∈ catalogueFrames
  noDrain : ChCall.drain ∉ s.calls

/-! ## Channel behaviour -/

/-- The handle is open, its channel is established, and the block is idle: the state in which the six commands make
their exchange (42_commands.md R160, 43_handle.md R190). -/
def State.Ready (s : State) : Prop :=
  s.phase = .idle ∧ s.handle.hs = .opened ∧ s.chan.established = true

/-- One read call as the channel answers it: how many bytes it gives, and what has happened on the line up to its
return (41_transceiver.md R144; log 9). -/
structure ReadReply where
  count : Nat
  event : LineEvent
  deriving DecidableEq, Repr

/-- How a channel answers an exchange whose request it accepts whole: what happens on the line at the flush and at the
write, and its read calls. Bytes may arrive at any call, before the first read too and more of them than are read
(20_memory.md R55, R58, R64). -/
structure Reply where
  atFlush : LineEvent
  atWrite : LineEvent
  reads : List ReadReply
  deriving DecidableEq, Repr

/-- The answers, in call order. -/
def Reply.answers (r : Reply) : List ChAnswer :=
  .flushed r.atFlush :: .wrote 9 r.atWrite :: r.reads.map fun q => .gave q.count q.event

/-- The bytes that arrive after the flush, in order: the receive stream of the exchange (20_memory.md R61). -/
def Reply.stream (r : Reply) : List Byte :=
  r.atFlush.arrive ++ r.atWrite.arrive ++ r.reads.flatMap fun q => q.event.arrive

/-- How many bytes the read calls give. -/
def given (qs : List ReadReply) : Nat := (qs.map ReadReply.count).sum

/-- What the read calls are charged (41_transceiver.md R134). -/
def charged (c : Config) (qs : List ReadReply) : Nat :=
  (qs.map fun q => charge c.attemptCounting q.count).sum

/-- No read call gives bytes that have not arrived, with `n` unread bytes at first (41_transceiver.md R144). -/
def canGive : Nat → List ReadReply → Bool
  | _, [] => true
  | n, q :: qs =>
    decide (q.count ≤ n + q.event.arrive.length) && canGive (n + q.event.arrive.length - q.count) qs

/-- The channel gives only what has arrived since the flush. -/
def Reply.canGive (r : Reply) : Bool :=
  Machine.canGive (r.atFlush.arrive.length + r.atWrite.arrive.length) r.reads

/-- The read calls give nine bytes, the first nine of the stream, which are `f`; the last call completes them, and every
call before it is within the ceiling (41_transceiver.md R133, R142). What arrives beyond them stays unread. -/
structure Delivers (c : Config) (r : Reply) (f : Frame) : Prop where
  can : r.canGive = true
  whole : r.stream.take 9 = f.toList
  nine : given r.reads = 9
  last : given r.reads.dropLast < 9
  inBudget : charged c r.reads.dropLast < c.retryCeiling

/-- The read calls use up the ceiling exactly and give fewer than nine bytes (41_transceiver.md R136). -/
structure TimesOut (c : Config) (r : Reply) : Prop where
  can : r.canGive = true
  short : given r.reads < 9
  usedUp : charged c r.reads = c.retryCeiling
  last : charged c r.reads.dropLast < c.retryCeiling

/-- The read calls the block makes when it holds `n` bytes and `bs` is what is still to come of the stream: each asks
for what is missing and gets the next bytes (41_transceiver.md R135, 20_memory.md R61). -/
def readCalls : Nat → List Byte → List ReadReply → List ChCall
  | _, _, [] => []
  | n, bs, q :: qs => .read (9 - n) (bs.take q.count) :: readCalls (n + q.count) (bs.drop q.count) qs

/-- The channel calls of an exchange whose request `q` was accepted whole (20_memory.md R60). -/
def exchangeCalls (q : Frame) (r : Reply) : List ChCall :=
  .flush :: .write q 9 :: readCalls 0 r.stream r.reads

/-- The channel after the flush and the write of an exchange: the input buffer holds what arrived after the flush, and
the accepted bytes stand behind what the output buffer held, less what the line carried away (10_state.md R39). -/
def Channel.afterWrite (c : Channel) (e0 e1 : LineEvent) (accepted : List Byte) : Channel :=
  { c with
    inBuf := e0.arrive ++ e1.arrive
    outBuf := (c.outBuf.drop e0.carried ++ accepted).drop e1.carried }

/-- The channel after an exchange of `q`: of the stream what was not read stands in the input buffer, and the line has
carried bytes away at each read (20_memory.md R58, 10_state.md R39). -/
def Reply.channelAfter (r : Reply) (q : Frame) (c : Channel) : Channel :=
  { c with
    inBuf := r.stream.drop (given r.reads)
    outBuf := (c.afterWrite r.atFlush r.atWrite q.toList).outBuf.drop (r.reads.map fun p => p.event.carried).sum }

/-- The checksum of a frame is right, which is all DECODE tests (40_codec.md R114, R115). -/
def Valid (f : Frame) : Prop := checksum f = f[8]

/-- The sum of bytes 1 to 7 of a frame, both included (00_scope.md R11, 40_codec.md R110). -/
def coveredSum (f : Frame) : Nat := (((f.toList.drop 1).take 7).map BitVec.toNat).sum

/-- A frame with bit `k` of byte `i` flipped (40_codec.md R118). -/
def flipBit (f : Frame) (i : Fin 9) (k : Nat) : Frame := f.set i (f[i] ^^^ (1#8 <<< k))

/-- A try of OPEN's probe that gets no version (43_handle.md R192): the request is not accepted whole, the channel falls
silent, or the response `f` is corrupted. -/
inductive Try where
  | short (k : Nat) (atFlush atWrite : LineEvent)
  | silent (r : Reply)
  | corrupt (r : Reply) (f : Frame)
  deriving DecidableEq, Repr

/-- The try fails, with WriteError, ReadTimeout or ChecksumMismatch. -/
def Try.Fails (c : Config) : Try → Prop
  | .short k _ _ => k < 9
  | .silent r => TimesOut c r
  | .corrupt r f => Delivers c r f ∧ ¬ Valid f

/-- The channel's answers to the try. -/
def Try.answers : Try → List ChAnswer
  | .short k e0 e1 => [.flushed e0, .wrote k e1]
  | .silent r => r.answers
  | .corrupt r _ => r.answers

/-- The channel calls of the try, with request `q`. -/
def Try.calls (q : Frame) : Try → List ChCall
  | .short k _ _ => [.flush, .write q k]
  | .silent r => exchangeCalls q r
  | .corrupt r _ => exchangeCalls q r

/-- The channel after the try. -/
def Try.channelAfter (q : Frame) (c : Channel) : Try → Channel
  | .short k e0 e1 => c.afterWrite e0 e1 (q.toList.take k)
  | .silent r => r.channelAfter q c
  | .corrupt r _ => r.channelAfter q c

/-- The channel calls of one exchange that sends `q` (41_transceiver.md R141, R135, 20_memory.md R60, R64): one flush,
one write, and, only after a whole write, at most RETRY_CEILING reads (nine more when only empty ones are charged),
each asking for 1 to 9 bytes and getting no more. -/
def ExchangeBudget (c : Config) (q : Frame) (calls : List ChCall) : Prop :=
  ∃ (n : Nat) (reads : List ChCall), calls = .flush :: .write q n :: reads ∧ n ≤ 9 ∧ (n < 9 → reads = []) ∧
    (∀ k ∈ reads, ∃ m d, k = .read m d ∧ 1 ≤ m ∧ m ≤ 9 ∧ d.length ≤ m) ∧
    (c.attemptCounting = .allCalls → reads.length ≤ c.retryCeiling) ∧ reads.length ≤ c.retryCeiling + 9

/-- The next row of the block makes a channel call (41_transceiver.md R143, 60_exceptions.md R226). -/
def CallsNext (s : State) : Prop :=
  match s.phase with
  | .idle => False
  | .chOpen => True
  | .flush => s.chan.established = true
  | .write => s.chan.established = true ∧ (codecEncode s.cur.cmd s.cur.pl s.cur.len).isSome = true
  | .read => s.chan.established = true ∧ s.frames.rxCnt < 9 ∧ s.frames.att < s.cfg.retryCeiling
  | .decode => False
  | .chClose => s.chan.established = true

/-- The request frame a command sends, as the table of 30_encoding.md R88 writes it out; OPEN and CLOSE, which
have none, are given the frame of OPEN's probe (43_handle.md R192). -/
def wireFrame (i : Instr) : Frame :=
  (requestFrame i).getD #v[0xFF, 0x01, 0xA0, 0x00, 0x00, 0x00, 0x00, 0x00, 0x5F]

/-- The command reads a response: every one but a ZERO_CAL that awaits none (42_commands.md R166). -/
def Awaits (c : Config) (i : Instr) : Prop := i = .zeroCal → c.zeroCalAwaitsResponse = true

/-! ## What an operation keeps -/

/-- What no command changes, whatever its outcome, but GET_VERSION the cached version: the handle state, the
verbosity flag (10_state.md R21, R22), the parameters, and what the host will present. -/
def KeepsHost (s t : State) : Prop :=
  t.handle.hs = s.handle.hs ∧ t.handle.verbose = s.handle.verbose ∧ t.cfg = s.cfg ∧ t.hostIn = s.hostIn

/-- The cached version is kept (10_state.md R23). -/
def KeepsVersion (s t : State) : Prop :=
  t.handle.verValid = s.handle.verValid ∧ t.handle.ver = s.handle.ver

/-- The block is idle again with this status and has signalled one completion (10_state.md R33, D2). -/
def Completed (s t : State) (st : Status) : Prop :=
  t.phase = .idle ∧ t.status = st ∧ t.done = s.done + 1

/-- The typed results a command does not own are kept (10_state.md R36). -/
def KeepsCo2 (s t : State) : Prop :=
  t.typed.co2Ppm = s.typed.co2Ppm ∧ t.typed.tempC = s.typed.tempC ∧ t.typed.tempValid = s.typed.tempValid
def KeepsTempRaw (s t : State) : Prop := t.typed.tempRaw = s.typed.tempRaw
def KeepsAbc (s t : State) : Prop := t.typed.abcOn = s.typed.abcOn

/-- Two states that differ at most in what the handle notes beside its state: the verbosity flag and the cached
version (10_state.md R22, R23). -/
def SameButNotes (s t : State) : Prop :=
  t.handle.hs = s.handle.hs ∧ t = { s with handle := t.handle }

/-- Two outcomes of one kind: the same stop, or next states that differ at most in the handle's notes. -/
def AgreeButNotes : Host.Outcome State Fault Refusal → Host.Outcome State Fault Refusal → Prop
  | .next s, .next t => SameButNotes s t
  | .fault a, .fault b => a = b
  | .refused a, .refused b => a = b
  | _, _ => False

/-- What every command that succeeds with the response `f` to the exchange `r` leaves, besides its typed results: OK, the
leading `w` payload bytes, the command byte of the response, exactly the channel calls of one exchange of the command's
frame, and the channel with what was not read and what the line has not carried (42_commands.md R160, 41_transceiver.md
R138, 20_memory.md R58). -/
structure Exchanged (i : Instr) (w : Nat) (f : Frame) (r : Reply) (rest : List ChAnswer) (s t : State) : Prop where
  completed : Completed s t .ok
  keeps : KeepsHost s t
  resLen : t.raw.resLen = w
  result : t.result = (framePayload f).toList.take w
  rcmd : t.raw.rcmd = f[2]
  calls : t.calls = s.calls ++ exchangeCalls (wireFrame i) r
  script : t.script = rest
  channel : t.chan = r.channelAfter (wireFrame i) s.chan

end Sys2Proof.Machine
end

