-- ==== Sys2Proof/Certificates/Slice0/Obligations.lean ====
section
/-!
DEFINITION. The statements for the provers, from the numbered rules of spec/. An error's statement says nothing of the
registers the spec leaves unspecified after it: their values are free (logs 13 to 15).
-/

open Sys2Proof Sys2Proof.Machine

/-! ## The codec -/

/-- 40_codec.md R110: CHECKSUM is `(0xFF - (sum mod 256) + 1) mod 256` over bytes 1 to 7, with its corner cases, and
reads neither byte 0 nor byte 8. -/
def Obligations.ChecksumFormula : Prop :=
  (∀ b : Frame, (checksum b).toNat = (0xFF - coveredSum b % 256 + 1) % 256) ∧
  (∀ (b : Frame) (v w : Byte), checksum ((b.set 0 v).set 8 w) = checksum b) ∧
  (∀ b : Frame, coveredSum b % 256 = 0 → checksum b = 0x00) ∧
  (∀ b : Frame, coveredSum b % 256 = 1 → checksum b = 0xFF) ∧
  (∀ b : Frame, coveredSum b % 256 = 0xFF → checksum b = 0x01)

/-- 40_codec.md R111, its five laws. -/
def Obligations.ChecksumLaws : Prop :=
  (∀ b : Frame, ((checksum b).toNat : Int) = (-(coveredSum b : Int)) % 256 ∧
    (checksum b).toNat = (256 - coveredSum b % 256) % 256) ∧
  (∀ f : Frame, checksum f = f[8] ↔ (coveredSum f + f[8].toNat) % 256 = 0) ∧
  (∀ (b : Frame) (v : Byte), checksum (b.set 0 v) = checksum b) ∧
  (∀ b c : Frame, ((b.toList.drop 1).take 7).Perm ((c.toList.drop 1).take 7) → checksum b = checksum c) ∧
  (∀ b c : Frame, coveredSum b % 256 = coveredSum c % 256 → checksum b = checksum c) ∧
  (∀ (b : Frame) (i : Fin 9) (v : Byte), 1 ≤ i.val → i.val ≤ 7 → v ≠ b[i] → checksum (b.set i v) ≠ checksum b)

/-- 40_codec.md R112, R113: ENCODE writes all nine bytes for every command byte and up to five payload bytes, and has
no frame for more. -/
def Obligations.EncodeBuildsFrame : Prop :=
  ∀ (cmd : Byte) (pl : List Byte),
    (pl.length ≤ 5 → ∃ f, codecEncode cmd pl pl.length = some f ∧ f[0] = 0xFF ∧ f[1] = 0x01 ∧ f[2] = cmd ∧
      (framePayload f).toList = pl ++ List.replicate (5 - pl.length) 0x00 ∧ f[8] = checksum f) ∧
    (5 < pl.length → codecEncode cmd pl pl.length = none)

/-- 40_codec.md R114, R115: DECODE succeeds exactly on a right checksum, tests nothing else, and names the recomputed
and the received byte. -/
def Obligations.DecodeTestsOnlyTheChecksum : Prop :=
  (∀ f : Frame, checksum f = f[8] → codecDecode f = .ok { rcmd := f[2], rpay := #v[f[3], f[4], f[5], f[6], f[7]] }) ∧
  (∀ f : Frame, checksum f ≠ f[8] → codecDecode f = .error { expected := checksum f, actual := f[8] }) ∧
  (∀ (f : Frame) (v : Byte), codecDecode (f.set 0 v) = codecDecode f)

/-- 40_codec.md R117: for every command byte and every payload of at most five bytes, decoding what was encoded gives
the command and the padded payload back. -/
def Obligations.CodecRoundTrip : Prop :=
  ∀ (cmd : Byte) (pl : List Byte), pl.length ≤ 5 →
    ∃ f d, codecEncode cmd pl pl.length = some f ∧ codecDecode f = .ok d ∧ d.rcmd = cmd ∧
      d.rpay.toList = pl ++ List.replicate (5 - pl.length) 0x00

/-- 40_codec.md R118: flipping any single bit of bytes 1 to 8 of a valid frame makes DECODE fail with
ChecksumMismatch. -/
def Obligations.SingleBitFlipsAreDetected : Prop :=
  ∀ (f : Frame) (d : Decoded), codecDecode f = .ok d →
    ∀ (i : Fin 9) (k : Nat), 1 ≤ i.val → k < 8 → ∃ m : Mismatch, codecDecode (flipBit f i k) = .error m

/-! ## Encodings -/

/-- 30_encoding.md R88: nine bytes decode to a command exactly when they are the frame the table gives that command. -/
def Obligations.FrameHasOneMeaning : Prop :=
  ∀ (f : Frame) (i : Instr), decodeFrame f = .ok i ↔ requestFrame i = some f

/-- Decoding the bytes, and the host request, of a well-formed instruction gives it back. -/
def Obligations.DecodeEncode : Prop :=
  ∀ i : Instr, i.wf = true → decode (encode i) = .ok i ∧ decodeHost (encodeHost i) = .ok i

/-- 30_encoding.md R94: the host operation codes, `arg` the operand of OPEN and SET_ABC and ignored otherwise, and the
codes 0x8 to 0xF refused. -/
def Obligations.HostCodes : Prop :=
  (∀ a : Bool, decodeHost ⟨0x0, a⟩ = .ok (.openHandle a) ∧ decodeHost ⟨0x1, a⟩ = .ok .closeHandle ∧
    decodeHost ⟨0x2, a⟩ = .ok .readCo2 ∧ decodeHost ⟨0x3, a⟩ = .ok .readTemp ∧
    decodeHost ⟨0x4, a⟩ = .ok (if a = true then .setAbcOn else .setAbcOff) ∧
    decodeHost ⟨0x5, a⟩ = .ok .getAbc ∧ decodeHost ⟨0x6, a⟩ = .ok .zeroCal ∧
    decodeHost ⟨0x7, a⟩ = .ok .getVersion) ∧
  (∀ (op : BitVec 4) (a : Bool) (s : State) (rest : List HostEvent), 8 ≤ op.toNat → s.phase = .idle →
    s.hostIn = .request ⟨op, a⟩ :: rest → step s = .refused .noSuchOperation)

/-- The frames of 30_encoding.md R88, written out, decode to their instructions, and so do the words of OPEN and CLOSE:
the 4-bit code of R94 with the operand bit above it in one byte, a packing that is the model's choice (log 3). -/
def Obligations.WordsDecode : Prop :=
  decode [0xFF, 0x01, 0x86, 0x00, 0x00, 0x00, 0x00, 0x00, 0x79] = .ok .readCo2 ∧
  decode [0xFF, 0x01, 0x79, 0xA0, 0x00, 0x00, 0x00, 0x00, 0xE6] = .ok .setAbcOn ∧
  decode [0xFF, 0x01, 0xA0, 0x00, 0x00, 0x00, 0x00, 0x00, 0x5F] = .ok .getVersion ∧
  decode [0x00] = .ok (.openHandle false) ∧ decode [0x01] = .ok .closeHandle

/-- 30_encoding.md R88: ENCODE of each command's catalogue entry is the frame the table writes out, and the entry is
well-formed. -/
def Obligations.CatalogueFramesAreEncoded : Prop :=
  ∀ (i : Instr) (r : ExchangeReq), exchangeOf i = some r →
    codecEncode r.cmd r.payload r.payload.length = requestFrame i ∧ r.wf = true

/-! ## Reset and the host's step -/

/-- 10_state.md R41, 70_reset_and_hazards.md R250: what reset leaves in the registers whose reset value the spec
gives, at the start of the machine and at every later reset of an idle block; a reset makes no channel call and does
not touch the channel. -/
def Obligations.ResetLeaves : Prop :=
  (State.reset.handle.hs = .closedNew ∧ State.reset.handle.verbose = false ∧
    State.reset.handle.verValid = false ∧ State.reset.phase = .idle ∧ State.reset.frames.rxCnt = 0 ∧
    State.reset.frames.att = 0 ∧ State.reset.frames.probeCnt = 0 ∧ State.reset.status = .ok ∧
    State.reset.raw.resLen = 0 ∧ State.reset.typed.tempValid = false) ∧
  (∀ (s : State) (rest : List HostEvent), s.phase = .idle → s.hostIn = .reset :: rest →
    ∃ t, step s = .next t ∧ t.handle.hs = .closedNew ∧ t.handle.verbose = false ∧ t.handle.verValid = false ∧
      t.phase = .idle ∧ t.frames.rxCnt = 0 ∧ t.frames.att = 0 ∧ t.frames.probeCnt = 0 ∧ t.status = .ok ∧
      t.raw.resLen = 0 ∧ t.typed.tempValid = false ∧ t.calls = s.calls ∧ t.chan = s.chan ∧ t.script = s.script ∧
      t.cfg = s.cfg ∧ t.hostIn = rest)

/-- The invariant holds at reset. For `temp_c`, to which 10_state.md R41 gives no value, it holds by the zero the model
chose (log 11). -/
def Obligations.ResetMeetsInvariant : Prop := State.reset.Inv

/-- A step runs the decoded instruction: an idle block takes the request the host presents, which leaves the port,
and runs it; with nothing presented it waits; a busy block takes its own next row. The instruction of a table word
placed where the block takes its next request is the one the next step runs. -/
def Obligations.StepRunsDecoded : Prop :=
  (∀ (s : State) (r : HostReq) (rest : List HostEvent) (i : Instr), s.phase = .idle →
    s.hostIn = .request r :: rest → decodeHost r = .ok i → step s = exec i { s with hostIn := rest }) ∧
  (∀ s : State, s.phase = .idle → s.hostIn = [] → step s = .next s) ∧
  (∀ s : State, s.phase ≠ .idle → step s = tick s) ∧
  (∀ (s : State) (nbits w : Nat) (i : Instr), decodeTableWord nbits w = some i →
    step (s.withFetchWord nbits w) = exec i { s with phase := .idle })

/-- 43_handle.md R196, 10_state.md R31: while the block is busy a step leaves what the host presents where it is, and
every latch is constant until the operation completes. Of the latches after its completion nothing is said
(00_scope.md R16; log 21). -/
def Obligations.HeldWhileBusy : Prop :=
  ∀ s t : State, s.phase ≠ .idle → step s = .next t →
    t.hostIn = s.hostIn ∧ (t.phase ≠ .idle → t.cur = s.cur)

/-- 10_state.md R31: what an accepted operation that is not completed at once has in its latches: its code, the operand
bit of OPEN and SET_ABC, and the operands of its exchange, which for OPEN are those of every try of its probe
(43_handle.md R192). The first three clauses say what each acceptance latches, the last three which acceptance each
instruction runs: a command that of its own code and of its entry in the catalogue (30_encoding.md R88), SET_ABC on
with operand bit 1 and SET_ABC off with 0 (30_encoding.md R94). -/
def Obligations.LatchesAtAcceptance : Prop :=
  (∀ (v : Bool) (s u : State), beginOpen v s = .next u →
    u.cur = { op := .openOp, arg := v, cmd := 0xA0, pl := [], len := 0, width := 4 }) ∧
  (∀ s u : State, beginClose s = .next u → u.phase ≠ .idle → u.cur.op = .closeOp) ∧
  (∀ (o : HostOp) (a : Option Bool) (r : ExchangeReq) (s u : State), beginCommand o a r s = .next u →
    u.phase ≠ .idle → u.cur.op = o ∧ (∀ b, a = some b → u.cur.arg = b) ∧ u.cur.cmd = r.cmd ∧
      u.cur.pl = r.payload ∧ u.cur.len = r.payload.length ∧ u.cur.width = r.width) ∧
  (∀ (v : Bool) (s : State), exec (.openHandle v) s = runOperation (beginOpen v) s) ∧
  (∀ s : State, exec .closeHandle s = runOperation beginClose s) ∧
  (∀ (i : Instr) (r : ExchangeReq), exchangeOf i = some r →
    ∃ a : Option Bool, (∀ s : State, exec i s = runOperation (beginCommand (opOf i) a r) s) ∧
      (i = .setAbcOn → a = some true) ∧ (i = .setAbcOff → a = some false))

/-! ## The handle -/

/-- 43_handle.md R194: a command on a handle that is not open completes at once with NotOpen and makes no channel
call. -/
def Obligations.CommandNeedsOpenHandle : Prop :=
  ∀ (i : Instr) (s : State), i.isCommand = true → s.phase = .idle → s.handle.hs ≠ .opened →
    ∃ t, exec i s = .next t ∧ Completed s t .notOpen ∧ t.calls = s.calls ∧ t.chan = s.chan ∧ t.script = s.script ∧
      t.handle = s.handle ∧ t.cfg = s.cfg ∧ t.hostIn = s.hostIn

/-- 43_handle.md R195: OPEN on an open or closed-again handle is refused, and a reset gives a new handle. -/
def Obligations.OpenRefusedWhenNotNew : Prop :=
  (∀ (v : Bool) (s : State), s.phase = .idle → s.handle.hs ≠ .closedNew →
    exec (.openHandle v) s = .refused .openWhenNotNew) ∧
  (∀ (s : State) (rest : List HostEvent), s.phase = .idle → s.hostIn = .reset :: rest →
    ∃ t, step s = .next t ∧ t.handle.hs = .closedNew)

/-- 43_handle.md R191, R192: OPEN on a channel that opens, whose probe gets a version after fewer than
OPEN_VERSION_TRIES tries that failed, or at the first. That the typed results stay is the model's reading (logs 16
and 17), and that ChOpen leaves the channel's buffers its choice (log 31). -/
def Obligations.OpenWithVersion : Prop :=
  ∀ (v : Bool) (s : State) (tries : List Try) (r : Reply) (f : Frame) (rest : List ChAnswer),
    s.phase = .idle → s.handle.hs = .closedNew → tries.length < s.cfg.openVersionTries →
    (∀ a ∈ tries, a.Fails s.cfg) → Delivers s.cfg r f → Valid f →
    s.script = .opened true :: (tries.flatMap Try.answers ++ (r.answers ++ rest)) →
    ∃ t, exec (.openHandle v) s = .next t ∧ Completed s t .ok ∧ t.handle.hs = .opened ∧ t.handle.verbose = v ∧
      t.handle.verValid = true ∧ t.handle.ver = #v[f[3], f[4], f[5], f[6]] ∧ t.typed = s.typed ∧
      t.calls = s.calls ++ .open true ::
        (tries.flatMap (Try.calls (wireFrame .getVersion)) ++ exchangeCalls (wireFrame .getVersion) r) ∧
      t.script = rest ∧
      t.chan = r.channelAfter (wireFrame .getVersion)
        (tries.foldl (Try.channelAfter (wireFrame .getVersion)) { s.chan with established := true }) ∧
      t.cfg = s.cfg ∧ t.hostIn = s.hostIn

/-- 43_handle.md R192, 60_exceptions.md R223: OPEN's probe absorbs the errors of its tries, WriteError, ReadTimeout and
ChecksumMismatch in any order, and stops at OPEN_VERSION_TRIES: where every try fails OPEN completes with OK and no
version. The typed results and the channel's buffers at ChOpen are as in OpenWithVersion (logs 16, 17, 31). -/
def Obligations.OpenAbsorbsFailedTries : Prop :=
  ∀ (v : Bool) (s : State) (tries : List Try) (rest : List ChAnswer), s.phase = .idle →
    s.handle.hs = .closedNew → tries.length = s.cfg.openVersionTries → (∀ a ∈ tries, a.Fails s.cfg) →
    s.script = .opened true :: (tries.flatMap Try.answers ++ rest) →
    ∃ t, exec (.openHandle v) s = .next t ∧ Completed s t .ok ∧ t.handle.hs = .opened ∧
      t.handle.verbose = v ∧ t.handle.verValid = false ∧ t.handle.ver = s.handle.ver ∧ t.typed = s.typed ∧
      t.calls = s.calls ++ .open true :: tries.flatMap (Try.calls (wireFrame .getVersion)) ∧
      t.script = rest ∧
      t.chan = tries.foldl (Try.channelAfter (wireFrame .getVersion)) { s.chan with established := true } ∧
      t.cfg = s.cfg ∧ t.hostIn = s.hostIn

/-- 43_handle.md R191, R192, 41_transceiver.md R141: the channel calls of every OPEN that completes, whatever the channel
answers: one ChOpen, and after `ok` at most OPEN_VERSION_TRIES exchanges of the GET_VERSION frame, each within its
budget, and all of them where no version was got. -/
def Obligations.OpenCallBudget : Prop :=
  ∀ (v : Bool) (s t : State), s.phase = .idle → exec (.openHandle v) s = .next t →
    ∃ (ok : Bool) (exchanges : List (List ChCall)), t.calls = s.calls ++ .open ok :: exchanges.flatten ∧
      (∀ x ∈ exchanges, ExchangeBudget s.cfg (wireFrame .getVersion) x) ∧
      exchanges.length ≤ s.cfg.openVersionTries ∧ (ok = false → exchanges = []) ∧
      (ok = true → t.handle.verValid = false → exchanges.length = s.cfg.openVersionTries)

/-- 60_exceptions.md R211: when ChOpen answers `fail` OPEN completes with ChannelOpenError, makes no exchange, and
leaves the handle as it was. That the channel is as it was too is the model's choice (log 31). -/
def Obligations.OpenFailure : Prop :=
  ∀ (v : Bool) (s : State) (rest : List ChAnswer), s.phase = .idle → s.handle.hs = .closedNew →
    s.script = .opened false :: rest →
    ∃ t, exec (.openHandle v) s = .next t ∧ Completed s t .channelOpenError ∧ t.handle = s.handle ∧
      t.calls = s.calls ++ [.open false] ∧ t.script = rest ∧ t.chan = s.chan ∧ t.cfg = s.cfg ∧ t.hostIn = s.hostIn

/-- 43_handle.md R191, R192: once the channel is established OPEN completes with OK, whatever the channel answers from
then on (every answer after ChOpen is a free value, log 6). That the typed results stay is the model's reading (logs 16
and 17). -/
def Obligations.OpenSucceedsForEveryDraw : Prop :=
  ∀ (v : Bool) (s : State), s.phase = .idle → s.handle.hs = .closedNew → s.script = [.opened true] →
    ∃ t, exec (.openHandle v) s = .next t ∧ Completed s t .ok ∧ t.handle.hs = .opened ∧ t.handle.verbose = v ∧
      t.typed = s.typed ∧ t.cfg = s.cfg ∧ t.hostIn = s.hostIn

/-- 43_handle.md R193: CLOSE, in each of the three handle states. That the raw and typed results stay (log 17) and that
ChClose leaves the channel's buffers, with nothing arriving or carried away (logs 9 and 31), is the model's. -/
def Obligations.CloseResult : Prop :=
  (∀ (s : State) (rest : List ChAnswer), s.Ready → s.script = .closed :: rest →
    ∃ t, exec .closeHandle s = .next t ∧ Completed s t .ok ∧ t.handle.hs = .closedDone ∧
      t.handle.verValid = false ∧ t.handle.verbose = s.handle.verbose ∧ t.handle.ver = s.handle.ver ∧
      t.calls = s.calls ++ [.close] ∧ t.script = rest ∧ t.chan = { s.chan with established := false } ∧
      t.raw = s.raw ∧ t.typed = s.typed ∧ t.cfg = s.cfg ∧ t.hostIn = s.hostIn) ∧
  (∀ s : State, s.phase = .idle → s.handle.hs = .closedNew →
    ∃ t, exec .closeHandle s = .next t ∧ Completed s t .notOpen ∧ t.handle = s.handle ∧ t.calls = s.calls ∧
      t.chan = s.chan ∧ t.script = s.script ∧ t.cfg = s.cfg ∧ t.hostIn = s.hostIn) ∧
  (∀ s : State, s.phase = .idle → s.handle.hs = .closedDone →
    ∃ t, exec .closeHandle s = .next t ∧ Completed s t .alreadyClosed ∧ t.handle = s.handle ∧ t.calls = s.calls ∧
      t.chan = s.chan ∧ t.script = s.script ∧ t.cfg = s.cfg ∧ t.hostIn = s.hostIn)

/-- 43_handle.md R190: the transitions of `hs` and the status that goes with each, over every operation that completes
from an idle block, whatever the channel answers. -/
def Obligations.HandleTransitions : Prop :=
  ∀ (i : Instr) (s t : State), s.phase = .idle → exec i s = .next t →
    match i, s.handle.hs with
    | .openHandle _, .closedNew =>
      ([ChCall.open true] <+: t.calls.drop s.calls.length ∧ t.status = .ok ∧ t.handle.hs = .opened) ∨
      (t.calls.drop s.calls.length = [ChCall.open false] ∧ t.status = .channelOpenError ∧ t.handle.hs = .closedNew)
    | .openHandle _, _ => False
    | .closeHandle, .closedNew => t.status = .notOpen ∧ t.handle.hs = .closedNew
    | .closeHandle, .opened => t.status = .ok ∧ t.handle.hs = .closedDone
    | .closeHandle, .closedDone => t.status = .alreadyClosed ∧ t.handle.hs = .closedDone
    | _, .opened => t.handle.hs = .opened ∧
        (t.status = .ok ∨ t.status = .writeError ∨ t.status = .readTimeout ∨ t.status = .checksumMismatch)
    | _, .closedNew => t.status = .notOpen ∧ t.handle.hs = .closedNew
    | _, .closedDone => t.status = .notOpen ∧ t.handle.hs = .closedDone

/-- 43_handle.md R190, 70_reset_and_hazards.md R250: from a closed-again handle no step but a reset leaves
CLOSED_DONE, and none makes a channel call. -/
def Obligations.ClosedDoneIsTerminal : Prop :=
  ∀ s t : State, s.Inv → s.handle.hs = .closedDone → step s = .next t → (∀ rest, s.hostIn ≠ .reset :: rest) →
    t.handle.hs = .closedDone ∧ t.calls = s.calls ∧ t.chan = s.chan

/-! ## Results of the commands

The channel may bring bytes at any call, before the first read and beyond the ninth too (20_memory.md R55, R58, R64);
`Exchanged` says where they stand. -/

/-- 42_commands.md R162: READ_CO2. That the other results stay is the model's reading of 10_state.md R36 (log 17). -/
def Obligations.ReadCo2Result : Prop :=
  ∀ (s : State) (r : Reply) (f : Frame) (rest : List ChAnswer),
    s.Ready → s.script = r.answers ++ rest → Delivers s.cfg r f → Valid f →
    ∃ t, exec .readCo2 s = .next t ∧ Exchanged .readCo2 3 f r rest s t ∧ KeepsVersion s t ∧
      KeepsTempRaw s t ∧ KeepsAbc s t ∧ t.typed.co2Ppm.toNat = 256 * f[3].toNat + f[4].toNat ∧
      (s.cfg.hasCo2Temp = true → t.typed.tempValid = true ∧ t.celsius = (f[5].toNat : Int) - 40) ∧
      (s.cfg.hasCo2Temp = false → t.typed.tempValid = false ∧ t.typed.tempC = s.typed.tempC)

/-- 42_commands.md R163: READ_TEMP (other results: log 17). -/
def Obligations.ReadTempResult : Prop :=
  ∀ (s : State) (r : Reply) (f : Frame) (rest : List ChAnswer),
    s.Ready → s.script = r.answers ++ rest → Delivers s.cfg r f → Valid f →
    ∃ t, exec .readTemp s = .next t ∧ Exchanged .readTemp 4 f r rest s t ∧ KeepsVersion s t ∧
      KeepsCo2 s t ∧ KeepsAbc s t ∧ t.typed.tempRaw.toNat = 256 * f[5].toNat + f[6].toNat ∧
      t.celsiusExact = ((256 * f[5].toNat + f[6].toNat : Nat) : Rat) / 100

/-- 42_commands.md R164: SET_ABC, on and off (other results: log 17). -/
def Obligations.SetAbcResult : Prop :=
  ∀ (i : Instr) (s : State) (r : Reply) (f : Frame) (rest : List ChAnswer),
    i = .setAbcOn ∨ i = .setAbcOff →
    s.Ready → s.script = r.answers ++ rest → Delivers s.cfg r f → Valid f →
    ∃ t, exec i s = .next t ∧ Exchanged i 0 f r rest s t ∧ KeepsVersion s t ∧ t.typed = s.typed

/-- 42_commands.md R165: GET_ABC (other results: log 17). -/
def Obligations.GetAbcResult : Prop :=
  ∀ (s : State) (r : Reply) (f : Frame) (rest : List ChAnswer),
    s.Ready → s.script = r.answers ++ rest → Delivers s.cfg r f → Valid f →
    ∃ t, exec .getAbc s = .next t ∧ Exchanged .getAbc 5 f r rest s t ∧ KeepsVersion s t ∧
      KeepsCo2 s t ∧ KeepsTempRaw s t ∧
      (t.typed.abcOn = true ↔ (#v[f[3], f[4], f[5], f[6], f[7]] : Payload)[s.cfg.abcFlagIndex] ≠ 0x00)

/-- 42_commands.md R166: ZERO_CAL, as a full exchange and as a request that awaits no response (other results:
log 17). -/
def Obligations.ZeroCalResult : Prop :=
  (∀ (s : State) (r : Reply) (f : Frame) (rest : List ChAnswer),
    s.cfg.zeroCalAwaitsResponse = true → s.Ready → s.script = r.answers ++ rest →
    Delivers s.cfg r f → Valid f →
    ∃ t, exec .zeroCal s = .next t ∧ Exchanged .zeroCal 0 f r rest s t ∧ KeepsVersion s t ∧
      t.typed = s.typed) ∧
  (∀ (s : State) (e0 e1 : LineEvent) (rest : List ChAnswer),
    s.cfg.zeroCalAwaitsResponse = false → s.Ready → s.script = .flushed e0 :: .wrote 9 e1 :: rest →
    ∃ t, exec .zeroCal s = .next t ∧ Completed s t .ok ∧ KeepsHost s t ∧ KeepsVersion s t ∧
      t.typed = s.typed ∧ t.raw.resLen = 0 ∧ t.raw.rcmd = s.raw.rcmd ∧
      t.calls = s.calls ++ [.flush, .write (wireFrame .zeroCal) 9] ∧ t.script = rest ∧
      t.chan = s.chan.afterWrite e0 e1 (wireFrame .zeroCal).toList)

/-- 42_commands.md R167: GET_VERSION (other results: log 17). -/
def Obligations.GetVersionResult : Prop :=
  ∀ (s : State) (r : Reply) (f : Frame) (rest : List ChAnswer),
    s.Ready → s.script = r.answers ++ rest → Delivers s.cfg r f → Valid f →
    ∃ t, exec .getVersion s = .next t ∧ Exchanged .getVersion 4 f r rest s t ∧ t.typed = s.typed ∧
      t.handle.ver = #v[f[3], f[4], f[5], f[6]] ∧ t.handle.verValid = true

/-! ## The errors of an exchange -/

/-- 60_exceptions.md R214: a request of which fewer than nine bytes are accepted ends the command with WriteError; no
read follows, the input buffer was emptied and the bytes accepted stay on their way (R221). -/
def Obligations.ShortWriteIsWriteError : Prop :=
  ∀ (i : Instr) (s : State) (k : Nat) (e0 e1 : LineEvent) (rest : List ChAnswer), i.isCommand = true → s.Ready →
    s.script = .flushed e0 :: .wrote k e1 :: rest → k < 9 →
    ∃ t, exec i s = .next t ∧ Completed s t .writeError ∧ KeepsHost s t ∧ KeepsVersion s t ∧
      t.calls = s.calls ++ [.flush, .write (wireFrame i) k] ∧ t.script = rest ∧
      t.chan = s.chan.afterWrite e0 e1 ((wireFrame i).toList.take k)

/-- 41_transceiver.md R136, 60_exceptions.md R215: when the ceiling is used up with fewer than nine bytes the command
ends with ReadTimeout; the whole request was sent and what was not read stays in the channel (R221). -/
def Obligations.SilenceIsReadTimeout : Prop :=
  ∀ (i : Instr) (s : State) (r : Reply) (rest : List ChAnswer), i.isCommand = true →
    Awaits s.cfg i → s.Ready → s.script = r.answers ++ rest → TimesOut s.cfg r →
    ∃ t, exec i s = .next t ∧ Completed s t .readTimeout ∧ KeepsHost s t ∧ KeepsVersion s t ∧
      t.calls = s.calls ++ exchangeCalls (wireFrame i) r ∧ t.script = rest ∧
      t.chan = r.channelAfter (wireFrame i) s.chan

/-- 60_exceptions.md R216: a response whose checksum is wrong ends the command with ChecksumMismatch and its two
fields; nine bytes are consumed (R221). -/
def Obligations.CorruptionIsChecksumMismatch : Prop :=
  ∀ (i : Instr) (s : State) (r : Reply) (f : Frame) (rest : List ChAnswer),
    i.isCommand = true → Awaits s.cfg i → s.Ready → s.script = r.answers ++ rest →
    Delivers s.cfg r f → ¬ Valid f →
    ∃ t, exec i s = .next t ∧ Completed s t .checksumMismatch ∧ KeepsHost s t ∧ KeepsVersion s t ∧
      t.sums.csExp = checksum f ∧ t.sums.csAct = f[8] ∧
      t.calls = s.calls ++ exchangeCalls (wireFrame i) r ∧ t.script = rest ∧
      t.chan = r.channelAfter (wireFrame i) s.chan

/-! ## The rows of an exchange -/

/-- 20_memory.md R62, 41_transceiver.md R131: the flush row discards every byte in the input buffer, keeps what arrives
after it, leaves the output side to the line, and writes no register but the phase. -/
def Obligations.FlushRow : Prop :=
  ∀ (s : State) (e : LineEvent) (rest : List ChAnswer), s.phase = .flush → s.chan.established = true →
    s.script = .flushed e :: rest →
    step s = .next { s with
      phase := .write
      script := rest
      calls := s.calls ++ [.flush]
      chan := { established := true, inBuf := e.arrive, outBuf := s.chan.outBuf.drop e.carried } }

/-- 41_transceiver.md R133 to R135: one read call of the loop, asking for what is missing: the oldest `k` bytes of the
input buffer are removed, placed from index `rx_cnt` on, counted, and the call is charged. -/
def Obligations.ReadRow : Prop :=
  ∀ (s : State) (k : Nat) (e : LineEvent) (rest : List ChAnswer), s.phase = .read → s.chan.established = true →
    s.frames.rxCnt < 9 → s.frames.att < s.cfg.retryCeiling → s.script = .gave k e :: rest →
    k ≤ 9 - s.frames.rxCnt → k ≤ (s.chan.inBuf ++ e.arrive).length →
    ∃ t, step s = .next t ∧ t.phase = .read ∧ t.script = rest ∧ t.frames.rxCnt = s.frames.rxCnt + k ∧
      t.calls = s.calls ++ [.read (9 - s.frames.rxCnt) ((s.chan.inBuf ++ e.arrive).take k)] ∧
      t.chan.inBuf = (s.chan.inBuf ++ e.arrive).drop k ∧
      (∀ j : Nat, ∀ hj : j < 9, j < s.frames.rxCnt → t.frames.rxf[j] = s.frames.rxf[j]) ∧
      (∀ j : Nat, ∀ hj : s.frames.rxCnt + j < 9, j < k →
        some t.frames.rxf[s.frames.rxCnt + j] = (s.chan.inBuf ++ e.arrive)[j]?) ∧
      (s.cfg.attemptCounting = .allCalls → t.frames.att = s.frames.att + 1) ∧
      (s.cfg.attemptCounting = .zeroReturnsOnly →
        t.frames.att = s.frames.att + if k = 0 then 1 else 0) ∧
      t.handle = s.handle ∧ t.cur = s.cur ∧ t.status = s.status ∧ t.sums = s.sums ∧ t.raw = s.raw ∧
      t.typed = s.typed ∧ t.done = s.done ∧ t.cfg = s.cfg ∧ t.hostIn = s.hostIn

/-- 41_transceiver.md R136, R143: nine bytes held goes to DECODE, however many attempts were used. -/
def Obligations.NineBytesGoToDecode : Prop :=
  ∀ s : State, s.phase = .read → s.frames.rxCnt = 9 → step s = .next { s with phase := .decode }

/-- 41_transceiver.md R144, decision D9: a write or read count outside the contract is refused; and at every channel call
the block makes, ChOpen, ChFlush, ChWrite, ChRead or ChClose, an error return is refused and a call that never returns
is the fault (93_implementation_defined.md U9; log 8). -/
def Obligations.AnswersOutsideTheContract : Prop :=
  (∀ (s : State) (k : Int) (e : LineEvent) (rest : List ChAnswer), s.phase = .write → CallsNext s →
    s.script = .wrote k e :: rest → k < 0 ∨ 9 < k → step s = .refused .channelContract) ∧
  (∀ (s : State) (k : Int) (e : LineEvent) (rest : List ChAnswer), s.phase = .read → CallsNext s →
    s.script = .gave k e :: rest → k < 0 ∨ 9 - s.frames.rxCnt < k → step s = .refused .channelContract) ∧
  (∀ (s : State) (rest : List ChAnswer), CallsNext s → s.script = .failed :: rest →
    step s = .refused .channelContract) ∧
  (∀ (s : State) (rest : List ChAnswer), CallsNext s → s.script = .never :: rest →
    step s = .fault .channelCallNeverReturns)

/-- 10_state.md R38, 20_memory.md R50: what a row does to the two streams: the flush empties RXS, the write row hands the
nine bytes of its frame to TXS, the read row only appends to RXS, at most what was missing, and no other row reaches
either. Both streams are views of the model's record of calls (log 23). -/
def Obligations.Streams : Prop :=
  ∀ s t : State, s.phase ≠ .idle → step s = .next t →
    (s.phase = .flush → t.rxs = [] ∧ t.txs = s.txs) ∧
    (s.phase = .write → t.rxs = s.rxs ∧
      ∃ f, codecEncode s.cur.cmd s.cur.pl s.cur.len = some f ∧ t.txs = s.txs ++ f.toList) ∧
    (s.phase = .read → (∃ d, t.rxs = s.rxs ++ d ∧ d.length ≤ 9 - s.frames.rxCnt) ∧ t.txs = s.txs) ∧
    (s.phase = .chOpen ∨ s.phase = .decode ∨ s.phase = .chClose → t.rxs = s.rxs ∧ t.txs = s.txs)

/-! ## Over all operations and all channel behaviours -/

/-- 41_transceiver.md R141: every operation ends: where an operation answers next, the block is idle and has signalled
exactly one completion. -/
def Obligations.OperationsEndIdle : Prop :=
  ∀ (i : Instr) (s t : State), exec i s = .next t → t.phase = .idle ∧ (s.phase = .idle → t.done = s.done + 1)

/-- 41_transceiver.md R141: a command on an open handle ends for every draw of the channel's answers, with OK or one
of the three errors of an exchange. -/
def Obligations.CommandsEndForEveryDraw : Prop :=
  ∀ (i : Instr) (s : State), i.isCommand = true → s.Ready → s.script = [] →
    ∃ t, exec i s = .next t ∧ t.phase = .idle ∧ t.done = s.done + 1 ∧ KeepsHost s t ∧
      (t.status = .ok ∨ t.status = .writeError ∨ t.status = .readTimeout ∨ t.status = .checksumMismatch)

/-- 41_transceiver.md R141, R135, 20_memory.md R60, R64: the channel calls of a command that completes: none on a handle
that is not open, otherwise those of one exchange of its frame. -/
def Obligations.CommandCallBudget : Prop :=
  ∀ (i : Instr) (s t : State), i.isCommand = true → s.phase = .idle → exec i s = .next t →
    (s.handle.hs ≠ .opened ∧ t.calls = s.calls) ∨
    (s.handle.hs = .opened ∧ ∃ new, t.calls = s.calls ++ new ∧ ExchangeBudget s.cfg (wireFrame i) new)

/-- 60_exceptions.md R210: the 4-bit codes of `status`, and which of them each operation can leave; UnexpectedResponse
(0x6) is left by none (R217). -/
def Obligations.StatusCodes : Prop :=
  (Status.ok.code = 0x0 ∧ Status.channelOpenError.code = 0x1 ∧ Status.notOpen.code = 0x2 ∧
    Status.writeError.code = 0x3 ∧ Status.readTimeout.code = 0x4 ∧ Status.checksumMismatch.code = 0x5 ∧
    Status.unexpectedResponse.code = 0x6 ∧ Status.alreadyClosed.code = 0x7) ∧
  (∀ (i : Instr) (s t : State), s.phase = .idle → exec i s = .next t →
    (∀ v, i = .openHandle v → t.status.code ∈ ([0x0, 0x1] : List (BitVec 4))) ∧
    (i = .closeHandle → t.status.code ∈ ([0x0, 0x2, 0x7] : List (BitVec 4))) ∧
    (i.isCommand = true → t.status.code ∈ ([0x0, 0x2, 0x3, 0x4, 0x5] : List (BitVec 4))))

/-- 20_memory.md R62, 41_transceiver.md R131: stale bytes never leak: what a command does, outcome and all, does not
depend on what stood in the channel's input buffer when it was issued. That the two outcomes agree also in the registers
the spec leaves unspecified after a completion, and in the latches, which 00_scope.md R16 lets no claim speak of, is the
model's choice of free values (logs 32 and 21); and that the channel answers alike in both, once its script is used up,
is the model's form of it (log 6). -/
def Obligations.StaleBytesNeverLeak : Prop :=
  ∀ (i : Instr) (s : State) (stale : List Byte), i.isCommand = true → s.phase = .idle → s.handle.hs = .opened →
    exec i { s with chan := { s.chan with inBuf := stale } } = exec i s

/-- 10_state.md R22, 43_handle.md R197: the verbosity flag and the cached version decide nothing: an operation other
than OPEN, run from two states that differ only in them, stops alike or ends in states that differ only in them. For
the unspecified registers, the latches and the channel's free answers this is the model's choice, as in
StaleBytesNeverLeak (logs 32, 21 and 6). -/
def Obligations.NotesDecideNothing : Prop :=
  ∀ (i : Instr) (s t : State), (∀ v, i ≠ .openHandle v) → s.phase = .idle → SameButNotes s t →
    AgreeButNotes (exec i s) (exec i t)

/-- 10_state.md R36: a typed result register is written, on a completion with OK, only by the command it belongs to
(log 17). -/
def Obligations.ResultsHaveOneWriter : Prop :=
  ∀ (i : Instr) (s t : State), s.phase = .idle → exec i s = .next t → t.status = .ok →
    (i ≠ .readCo2 → KeepsCo2 s t) ∧ (i ≠ .readTemp → KeepsTempRaw s t) ∧ (i ≠ .getAbc → KeepsAbc s t)

/-- 10_state.md R23, 42_commands.md R167: whatever its outcome a command changes neither `hs` nor `verbose`, and the
cached version only if it is GET_VERSION and completes with OK. -/
def Obligations.CommandsKeepTheHandle : Prop :=
  ∀ (i : Instr) (s t : State), i.isCommand = true → s.phase = .idle → exec i s = .next t →
    KeepsHost s t ∧ (i ≠ .getVersion ∨ t.status ≠ .ok → KeepsVersion s t)

/-- No step changes the parameters (10_state.md R40). The record of channel calls only grows: it is the model's own field
(log 23) for the sequence of calls that 00_scope.md R16 observes. -/
def Obligations.StepsKeepParameters : Prop :=
  ∀ s t : State, step s = .next t → t.cfg = s.cfg ∧ s.calls <+: t.calls

/-- Every step keeps the invariant: register ranges, the reserved error never reported, phases, handle state and latches
in agreement, and nothing on the channel but the seven request frames. That the ranges hold after a completion too,
where the spec leaves those registers unspecified and 00_scope.md R16 lets nothing be claimed of rx_cnt, att and
probe_cnt, is the model's choice of free values within their ranges (log 30); at a reset temp_c is in its range by the
zero of log 11. -/
def Obligations.StepKeepsInvariant : Prop :=
  ∀ s t : State, s.Inv → step s = .next t → t.Inv

/-- From a state of the invariant with a channel that keeps its contract (every answer free), a step stops only where
the host breaks the rules: OPEN on a handle that is not new, or a code that is no operation. -/
def Obligations.OnlyTheHostIsRefused : Prop :=
  ∀ s : State, s.Inv → s.script = [] →
    (∀ r, step s = .refused r → r = .openWhenNotNew ∨ r = .noSuchOperation) ∧ (∀ r, step s ≠ .fault r)
end

