-- ==== Sys2Proof/Laws/State.lean ====
section
/-!
SUPPORT. One lemma per field of State for each shared update, so that no later proof unfolds a record update.
-/

namespace Sys2Proof.Machine

/-! ## Completions -/

@[simp] theorem finish_handle (st : Status) (s : State) : (finish st s).handle = s.handle := rfl
@[simp] theorem finish_phase (st : Status) (s : State) : (finish st s).phase = .idle := rfl
@[simp] theorem finish_frames (st : Status) (s : State) : (finish st s).frames = freeFrames s.cfg s.draws := rfl
@[simp] theorem finish_cur (st : Status) (s : State) : (finish st s).cur = s.cur := rfl
@[simp] theorem finish_status (st : Status) (s : State) : (finish st s).status = st := rfl
@[simp] theorem finish_sums (st : Status) (s : State) : (finish st s).sums = s.sums := rfl
@[simp] theorem finish_raw (st : Status) (s : State) : (finish st s).raw = s.raw := rfl
@[simp] theorem finish_typed (st : Status) (s : State) : (finish st s).typed = s.typed := rfl
@[simp] theorem finish_done (st : Status) (s : State) : (finish st s).done = s.done + 1 := rfl
@[simp] theorem finish_chan (st : Status) (s : State) : (finish st s).chan = s.chan := rfl
@[simp] theorem finish_script (st : Status) (s : State) : (finish st s).script = s.script := rfl
@[simp] theorem finish_hostIn (st : Status) (s : State) : (finish st s).hostIn = s.hostIn := rfl
@[simp] theorem finish_calls (st : Status) (s : State) : (finish st s).calls = s.calls := rfl
@[simp] theorem finish_cfg (st : Status) (s : State) : (finish st s).cfg = s.cfg := rfl
@[simp] theorem finish_draws (st : Status) (s : State) : (finish st s).draws = s.draws + 1 := rfl
@[simp] theorem raise_handle (e : OpError) (s : State) : (raise e s).handle = s.handle := rfl
@[simp] theorem raise_phase (e : OpError) (s : State) : (raise e s).phase = .idle := rfl
@[simp] theorem raise_frames (e : OpError) (s : State) : (raise e s).frames = freeFrames s.cfg s.draws := rfl
@[simp] theorem raise_cur (e : OpError) (s : State) : (raise e s).cur = s.cur := rfl
@[simp] theorem raise_status (e : OpError) (s : State) : (raise e s).status = e.status := rfl
@[simp] theorem raise_sums (e : OpError) (s : State) : (raise e s).sums = e.sums s.draws := rfl
@[simp] theorem raise_raw (e : OpError) (s : State) : (raise e s).raw = freeResult s.draws := rfl
@[simp] theorem raise_typed (e : OpError) (s : State) : (raise e s).typed = freeReadings s.draws := rfl
@[simp] theorem raise_done (e : OpError) (s : State) : (raise e s).done = s.done + 1 := rfl
@[simp] theorem raise_chan (e : OpError) (s : State) : (raise e s).chan = s.chan := rfl
@[simp] theorem raise_script (e : OpError) (s : State) : (raise e s).script = s.script := rfl
@[simp] theorem raise_hostIn (e : OpError) (s : State) : (raise e s).hostIn = s.hostIn := rfl
@[simp] theorem raise_calls (e : OpError) (s : State) : (raise e s).calls = s.calls := rfl
@[simp] theorem raise_cfg (e : OpError) (s : State) : (raise e s).cfg = s.cfg := rfl
@[simp] theorem raise_draws (e : OpError) (s : State) : (raise e s).draws = s.draws + 1 := rfl
@[simp] theorem complete_handle (s : State) : (complete s).handle = s.handle := rfl
@[simp] theorem complete_phase (s : State) : (complete s).phase = .idle := rfl
@[simp] theorem complete_frames (s : State) : (complete s).frames = freeFrames s.cfg s.draws := rfl
@[simp] theorem complete_cur (s : State) : (complete s).cur = s.cur := rfl
@[simp] theorem complete_status (s : State) : (complete s).status = .ok := rfl
@[simp] theorem complete_sums (s : State) : (complete s).sums = freeSums s.draws := rfl
@[simp] theorem complete_raw (s : State) : (complete s).raw = s.raw := rfl
@[simp] theorem complete_typed (s : State) : (complete s).typed = s.typed := rfl
@[simp] theorem complete_done (s : State) : (complete s).done = s.done + 1 := rfl
@[simp] theorem complete_chan (s : State) : (complete s).chan = s.chan := rfl
@[simp] theorem complete_script (s : State) : (complete s).script = s.script := rfl
@[simp] theorem complete_hostIn (s : State) : (complete s).hostIn = s.hostIn := rfl
@[simp] theorem complete_calls (s : State) : (complete s).calls = s.calls := rfl
@[simp] theorem complete_cfg (s : State) : (complete s).cfg = s.cfg := rfl
@[simp] theorem complete_draws (s : State) : (complete s).draws = s.draws + 1 := rfl
@[simp] theorem completeOpen_handle (s : State) : (completeOpen s).handle = s.handle := rfl
@[simp] theorem completeOpen_phase (s : State) : (completeOpen s).phase = .idle := rfl
@[simp] theorem completeOpen_frames (s : State) : (completeOpen s).frames = freeFrames s.cfg s.draws := rfl
@[simp] theorem completeOpen_cur (s : State) : (completeOpen s).cur = s.cur := rfl
@[simp] theorem completeOpen_status (s : State) : (completeOpen s).status = .ok := rfl
@[simp] theorem completeOpen_sums (s : State) : (completeOpen s).sums = freeSums s.draws := rfl
@[simp] theorem completeOpen_raw (s : State) : (completeOpen s).raw = freeResult s.draws := rfl
@[simp] theorem completeOpen_typed (s : State) : (completeOpen s).typed = s.typed := rfl
@[simp] theorem completeOpen_done (s : State) : (completeOpen s).done = s.done + 1 := rfl
@[simp] theorem completeOpen_chan (s : State) : (completeOpen s).chan = s.chan := rfl
@[simp] theorem completeOpen_script (s : State) : (completeOpen s).script = s.script := rfl
@[simp] theorem completeOpen_hostIn (s : State) : (completeOpen s).hostIn = s.hostIn := rfl
@[simp] theorem completeOpen_calls (s : State) : (completeOpen s).calls = s.calls := rfl
@[simp] theorem completeOpen_cfg (s : State) : (completeOpen s).cfg = s.cfg := rfl
@[simp] theorem completeOpen_draws (s : State) : (completeOpen s).draws = s.draws + 1 := rfl

/-! ## Registers written between completions -/

@[simp] theorem toPhase_handle (p : Phase) (s : State) : (toPhase p s).handle = s.handle := rfl
@[simp] theorem toPhase_phase (p : Phase) (s : State) : (toPhase p s).phase = p := rfl
@[simp] theorem toPhase_frames (p : Phase) (s : State) : (toPhase p s).frames = s.frames := rfl
@[simp] theorem toPhase_cur (p : Phase) (s : State) : (toPhase p s).cur = s.cur := rfl
@[simp] theorem toPhase_status (p : Phase) (s : State) : (toPhase p s).status = s.status := rfl
@[simp] theorem toPhase_sums (p : Phase) (s : State) : (toPhase p s).sums = s.sums := rfl
@[simp] theorem toPhase_raw (p : Phase) (s : State) : (toPhase p s).raw = s.raw := rfl
@[simp] theorem toPhase_typed (p : Phase) (s : State) : (toPhase p s).typed = s.typed := rfl
@[simp] theorem toPhase_done (p : Phase) (s : State) : (toPhase p s).done = s.done := rfl
@[simp] theorem toPhase_chan (p : Phase) (s : State) : (toPhase p s).chan = s.chan := rfl
@[simp] theorem toPhase_script (p : Phase) (s : State) : (toPhase p s).script = s.script := rfl
@[simp] theorem toPhase_hostIn (p : Phase) (s : State) : (toPhase p s).hostIn = s.hostIn := rfl
@[simp] theorem toPhase_calls (p : Phase) (s : State) : (toPhase p s).calls = s.calls := rfl
@[simp] theorem toPhase_cfg (p : Phase) (s : State) : (toPhase p s).cfg = s.cfg := rfl
@[simp] theorem toPhase_draws (p : Phase) (s : State) : (toPhase p s).draws = s.draws := rfl
@[simp] theorem loadFrame_handle (f : Frame) (s : State) : (loadFrame f s).handle = s.handle := rfl
@[simp] theorem loadFrame_phase (f : Frame) (s : State) : (loadFrame f s).phase = s.phase := rfl
@[simp] theorem loadFrame_frames (f : Frame) (s : State) : (loadFrame f s).frames = { s.frames with txf := f } := rfl
@[simp] theorem loadFrame_cur (f : Frame) (s : State) : (loadFrame f s).cur = s.cur := rfl
@[simp] theorem loadFrame_status (f : Frame) (s : State) : (loadFrame f s).status = s.status := rfl
@[simp] theorem loadFrame_sums (f : Frame) (s : State) : (loadFrame f s).sums = s.sums := rfl
@[simp] theorem loadFrame_raw (f : Frame) (s : State) : (loadFrame f s).raw = s.raw := rfl
@[simp] theorem loadFrame_typed (f : Frame) (s : State) : (loadFrame f s).typed = s.typed := rfl
@[simp] theorem loadFrame_done (f : Frame) (s : State) : (loadFrame f s).done = s.done := rfl
@[simp] theorem loadFrame_chan (f : Frame) (s : State) : (loadFrame f s).chan = s.chan := rfl
@[simp] theorem loadFrame_script (f : Frame) (s : State) : (loadFrame f s).script = s.script := rfl
@[simp] theorem loadFrame_hostIn (f : Frame) (s : State) : (loadFrame f s).hostIn = s.hostIn := rfl
@[simp] theorem loadFrame_calls (f : Frame) (s : State) : (loadFrame f s).calls = s.calls := rfl
@[simp] theorem loadFrame_cfg (f : Frame) (s : State) : (loadFrame f s).cfg = s.cfg := rfl
@[simp] theorem loadFrame_draws (f : Frame) (s : State) : (loadFrame f s).draws = s.draws := rfl
@[simp] theorem beginRead_handle (s : State) : (beginRead s).handle = s.handle := rfl
@[simp] theorem beginRead_phase (s : State) : (beginRead s).phase = .read := rfl
@[simp] theorem beginRead_frames (s : State) : (beginRead s).frames = { s.frames with rxCnt := 0, att := 0 } := rfl
@[simp] theorem beginRead_cur (s : State) : (beginRead s).cur = s.cur := rfl
@[simp] theorem beginRead_status (s : State) : (beginRead s).status = s.status := rfl
@[simp] theorem beginRead_sums (s : State) : (beginRead s).sums = s.sums := rfl
@[simp] theorem beginRead_raw (s : State) : (beginRead s).raw = s.raw := rfl
@[simp] theorem beginRead_typed (s : State) : (beginRead s).typed = s.typed := rfl
@[simp] theorem beginRead_done (s : State) : (beginRead s).done = s.done := rfl
@[simp] theorem beginRead_chan (s : State) : (beginRead s).chan = s.chan := rfl
@[simp] theorem beginRead_script (s : State) : (beginRead s).script = s.script := rfl
@[simp] theorem beginRead_hostIn (s : State) : (beginRead s).hostIn = s.hostIn := rfl
@[simp] theorem beginRead_calls (s : State) : (beginRead s).calls = s.calls := rfl
@[simp] theorem beginRead_cfg (s : State) : (beginRead s).cfg = s.cfg := rfl
@[simp] theorem beginRead_draws (s : State) : (beginRead s).draws = s.draws := rfl
@[simp] theorem accumulate_handle (d : List Byte) (s : State) : (accumulate d s).handle = s.handle := rfl
@[simp] theorem accumulate_phase (d : List Byte) (s : State) : (accumulate d s).phase = s.phase := rfl
@[simp] theorem accumulate_frames (d : List Byte) (s : State) : (accumulate d s).frames = { s.frames with 
    rxf := storeBytes s.frames.rxf s.frames.rxCnt d
    rxCnt := s.frames.rxCnt + d.length
    att := s.frames.att + charge s.cfg.attemptCounting d.length } := rfl
@[simp] theorem accumulate_cur (d : List Byte) (s : State) : (accumulate d s).cur = s.cur := rfl
@[simp] theorem accumulate_status (d : List Byte) (s : State) : (accumulate d s).status = s.status := rfl
@[simp] theorem accumulate_sums (d : List Byte) (s : State) : (accumulate d s).sums = s.sums := rfl
@[simp] theorem accumulate_raw (d : List Byte) (s : State) : (accumulate d s).raw = s.raw := rfl
@[simp] theorem accumulate_typed (d : List Byte) (s : State) : (accumulate d s).typed = s.typed := rfl
@[simp] theorem accumulate_done (d : List Byte) (s : State) : (accumulate d s).done = s.done := rfl
@[simp] theorem accumulate_chan (d : List Byte) (s : State) : (accumulate d s).chan = s.chan := rfl
@[simp] theorem accumulate_script (d : List Byte) (s : State) : (accumulate d s).script = s.script := rfl
@[simp] theorem accumulate_hostIn (d : List Byte) (s : State) : (accumulate d s).hostIn = s.hostIn := rfl
@[simp] theorem accumulate_calls (d : List Byte) (s : State) : (accumulate d s).calls = s.calls := rfl
@[simp] theorem accumulate_cfg (d : List Byte) (s : State) : (accumulate d s).cfg = s.cfg := rfl
@[simp] theorem accumulate_draws (d : List Byte) (s : State) : (accumulate d s).draws = s.draws := rfl
@[simp] theorem storeDecoded_handle (d : Decoded) (s : State) : (storeDecoded d s).handle = s.handle := rfl
@[simp] theorem storeDecoded_phase (d : Decoded) (s : State) : (storeDecoded d s).phase = s.phase := rfl
@[simp] theorem storeDecoded_frames (d : Decoded) (s : State) : (storeDecoded d s).frames = s.frames := rfl
@[simp] theorem storeDecoded_cur (d : Decoded) (s : State) : (storeDecoded d s).cur = s.cur := rfl
@[simp] theorem storeDecoded_status (d : Decoded) (s : State) : (storeDecoded d s).status = s.status := rfl
@[simp] theorem storeDecoded_sums (d : Decoded) (s : State) : (storeDecoded d s).sums = s.sums := rfl
@[simp] theorem storeDecoded_raw (d : Decoded) (s : State) : (storeDecoded d s).raw = {
    resLen := effectiveWidth s.cur.width
    res := storeResult (effectiveWidth s.cur.width) d.rpay s.raw.res
    rcmd := d.rcmd } := rfl
@[simp] theorem storeDecoded_typed (d : Decoded) (s : State) : (storeDecoded d s).typed = s.typed := rfl
@[simp] theorem storeDecoded_done (d : Decoded) (s : State) : (storeDecoded d s).done = s.done := rfl
@[simp] theorem storeDecoded_chan (d : Decoded) (s : State) : (storeDecoded d s).chan = s.chan := rfl
@[simp] theorem storeDecoded_script (d : Decoded) (s : State) : (storeDecoded d s).script = s.script := rfl
@[simp] theorem storeDecoded_hostIn (d : Decoded) (s : State) : (storeDecoded d s).hostIn = s.hostIn := rfl
@[simp] theorem storeDecoded_calls (d : Decoded) (s : State) : (storeDecoded d s).calls = s.calls := rfl
@[simp] theorem storeDecoded_cfg (d : Decoded) (s : State) : (storeDecoded d s).cfg = s.cfg := rfl
@[simp] theorem storeDecoded_draws (d : Decoded) (s : State) : (storeDecoded d s).draws = s.draws := rfl
@[simp] theorem storeMismatch_handle (m : Mismatch) (s : State) : (storeMismatch m s).handle = s.handle := rfl
@[simp] theorem storeMismatch_phase (m : Mismatch) (s : State) : (storeMismatch m s).phase = s.phase := rfl
@[simp] theorem storeMismatch_frames (m : Mismatch) (s : State) : (storeMismatch m s).frames = s.frames := rfl
@[simp] theorem storeMismatch_cur (m : Mismatch) (s : State) : (storeMismatch m s).cur = s.cur := rfl
@[simp] theorem storeMismatch_status (m : Mismatch) (s : State) : (storeMismatch m s).status = s.status := rfl
@[simp] theorem storeMismatch_sums (m : Mismatch) (s : State) : (storeMismatch m s).sums = { csExp := m.expected, csAct := m.actual } := rfl
@[simp] theorem storeMismatch_raw (m : Mismatch) (s : State) : (storeMismatch m s).raw = s.raw := rfl
@[simp] theorem storeMismatch_typed (m : Mismatch) (s : State) : (storeMismatch m s).typed = s.typed := rfl
@[simp] theorem storeMismatch_done (m : Mismatch) (s : State) : (storeMismatch m s).done = s.done := rfl
@[simp] theorem storeMismatch_chan (m : Mismatch) (s : State) : (storeMismatch m s).chan = s.chan := rfl
@[simp] theorem storeMismatch_script (m : Mismatch) (s : State) : (storeMismatch m s).script = s.script := rfl
@[simp] theorem storeMismatch_hostIn (m : Mismatch) (s : State) : (storeMismatch m s).hostIn = s.hostIn := rfl
@[simp] theorem storeMismatch_calls (m : Mismatch) (s : State) : (storeMismatch m s).calls = s.calls := rfl
@[simp] theorem storeMismatch_cfg (m : Mismatch) (s : State) : (storeMismatch m s).cfg = s.cfg := rfl
@[simp] theorem storeMismatch_draws (m : Mismatch) (s : State) : (storeMismatch m s).draws = s.draws := rfl

/-! ## Acceptance and the start of an exchange -/

@[simp] theorem latch_handle (op : HostOp) (arg : Option Bool) (r : Option ExchangeReq) (s : State) : (latch op arg r s).handle = s.handle := rfl
@[simp] theorem latch_phase (op : HostOp) (arg : Option Bool) (r : Option ExchangeReq) (s : State) : (latch op arg r s).phase = s.phase := rfl
@[simp] theorem latch_frames (op : HostOp) (arg : Option Bool) (r : Option ExchangeReq) (s : State) : (latch op arg r s).frames = s.frames := rfl
@[simp] theorem latch_cur (op : HostOp) (arg : Option Bool) (r : Option ExchangeReq) (s : State) : (latch op arg r s).cur = s.cur.accept op arg r := rfl
@[simp] theorem latch_status (op : HostOp) (arg : Option Bool) (r : Option ExchangeReq) (s : State) : (latch op arg r s).status = s.status := rfl
@[simp] theorem latch_sums (op : HostOp) (arg : Option Bool) (r : Option ExchangeReq) (s : State) : (latch op arg r s).sums = s.sums := rfl
@[simp] theorem latch_raw (op : HostOp) (arg : Option Bool) (r : Option ExchangeReq) (s : State) : (latch op arg r s).raw = s.raw := rfl
@[simp] theorem latch_typed (op : HostOp) (arg : Option Bool) (r : Option ExchangeReq) (s : State) : (latch op arg r s).typed = s.typed := rfl
@[simp] theorem latch_done (op : HostOp) (arg : Option Bool) (r : Option ExchangeReq) (s : State) : (latch op arg r s).done = s.done := rfl
@[simp] theorem latch_chan (op : HostOp) (arg : Option Bool) (r : Option ExchangeReq) (s : State) : (latch op arg r s).chan = s.chan := rfl
@[simp] theorem latch_script (op : HostOp) (arg : Option Bool) (r : Option ExchangeReq) (s : State) : (latch op arg r s).script = s.script := rfl
@[simp] theorem latch_hostIn (op : HostOp) (arg : Option Bool) (r : Option ExchangeReq) (s : State) : (latch op arg r s).hostIn = s.hostIn := rfl
@[simp] theorem latch_calls (op : HostOp) (arg : Option Bool) (r : Option ExchangeReq) (s : State) : (latch op arg r s).calls = s.calls := rfl
@[simp] theorem latch_cfg (op : HostOp) (arg : Option Bool) (r : Option ExchangeReq) (s : State) : (latch op arg r s).cfg = s.cfg := rfl
@[simp] theorem latch_draws (op : HostOp) (arg : Option Bool) (r : Option ExchangeReq) (s : State) : (latch op arg r s).draws = s.draws := rfl
@[simp] theorem startExchange_handle (s : State) : (startExchange s).handle = s.handle := rfl
@[simp] theorem startExchange_phase (s : State) : (startExchange s).phase = .flush := rfl
@[simp] theorem startExchange_frames (s : State) : (startExchange s).frames = s.frames := rfl
@[simp] theorem startExchange_cur (s : State) : (startExchange s).cur = s.cur := rfl
@[simp] theorem startExchange_status (s : State) : (startExchange s).status = s.status := rfl
@[simp] theorem startExchange_sums (s : State) : (startExchange s).sums = s.sums := rfl
@[simp] theorem startExchange_raw (s : State) : (startExchange s).raw = s.raw := rfl
@[simp] theorem startExchange_typed (s : State) : (startExchange s).typed = s.typed := rfl
@[simp] theorem startExchange_done (s : State) : (startExchange s).done = s.done := rfl
@[simp] theorem startExchange_chan (s : State) : (startExchange s).chan = s.chan := rfl
@[simp] theorem startExchange_script (s : State) : (startExchange s).script = s.script := rfl
@[simp] theorem startExchange_hostIn (s : State) : (startExchange s).hostIn = s.hostIn := rfl
@[simp] theorem startExchange_calls (s : State) : (startExchange s).calls = s.calls := rfl
@[simp] theorem startExchange_cfg (s : State) : (startExchange s).cfg = s.cfg := rfl
@[simp] theorem startExchange_draws (s : State) : (startExchange s).draws = s.draws := rfl
@[simp] theorem Latches.accept_op (l : Latches) (op : HostOp) (arg : Option Bool) (r : Option ExchangeReq) :
    (l.accept op arg r).op = op := by cases r <;> rfl
@[simp] theorem Latches.accept_arg (l : Latches) (op : HostOp) (arg : Option Bool) (r : Option ExchangeReq) :
    (l.accept op arg r).arg = arg.getD l.arg := by cases r <;> rfl
@[simp] theorem Latches.accept_cmd (l : Latches) (op : HostOp) (arg : Option Bool) (r : ExchangeReq) :
    (l.accept op arg (some r)).cmd = r.cmd := rfl
@[simp] theorem Latches.accept_pl (l : Latches) (op : HostOp) (arg : Option Bool) (r : ExchangeReq) :
    (l.accept op arg (some r)).pl = r.payload := rfl
@[simp] theorem Latches.accept_len (l : Latches) (op : HostOp) (arg : Option Bool) (r : ExchangeReq) :
    (l.accept op arg (some r)).len = r.payload.length := rfl
@[simp] theorem Latches.accept_width (l : Latches) (op : HostOp) (arg : Option Bool) (r : ExchangeReq) :
    (l.accept op arg (some r)).width = r.width := rfl

/-! ## A channel call recorded -/

@[simp] theorem called_handle (k : ChCall) (c : Channel) (s : State) : (s.called k c).handle = s.handle := rfl
@[simp] theorem called_phase (k : ChCall) (c : Channel) (s : State) : (s.called k c).phase = s.phase := rfl
@[simp] theorem called_frames (k : ChCall) (c : Channel) (s : State) : (s.called k c).frames = s.frames := rfl
@[simp] theorem called_cur (k : ChCall) (c : Channel) (s : State) : (s.called k c).cur = s.cur := rfl
@[simp] theorem called_status (k : ChCall) (c : Channel) (s : State) : (s.called k c).status = s.status := rfl
@[simp] theorem called_sums (k : ChCall) (c : Channel) (s : State) : (s.called k c).sums = s.sums := rfl
@[simp] theorem called_raw (k : ChCall) (c : Channel) (s : State) : (s.called k c).raw = s.raw := rfl
@[simp] theorem called_typed (k : ChCall) (c : Channel) (s : State) : (s.called k c).typed = s.typed := rfl
@[simp] theorem called_done (k : ChCall) (c : Channel) (s : State) : (s.called k c).done = s.done := rfl
@[simp] theorem called_chan (k : ChCall) (c : Channel) (s : State) : (s.called k c).chan = c := rfl
@[simp] theorem called_script (k : ChCall) (c : Channel) (s : State) : (s.called k c).script = s.script := rfl
@[simp] theorem called_hostIn (k : ChCall) (c : Channel) (s : State) : (s.called k c).hostIn = s.hostIn := rfl
@[simp] theorem called_calls (k : ChCall) (c : Channel) (s : State) : (s.called k c).calls = s.calls ++ [k] := rfl
@[simp] theorem called_cfg (k : ChCall) (c : Channel) (s : State) : (s.called k c).cfg = s.cfg := rfl
@[simp] theorem called_draws (k : ChCall) (c : Channel) (s : State) : (s.called k c).draws = s.draws := rfl

/-! ## Interpretations and the handle registers -/

@[simp] theorem interpretReadCo2_handle (s : State) : (interpretReadCo2 s).handle = s.handle := rfl
@[simp] theorem interpretReadCo2_phase (s : State) : (interpretReadCo2 s).phase = s.phase := rfl
@[simp] theorem interpretReadCo2_frames (s : State) : (interpretReadCo2 s).frames = s.frames := rfl
@[simp] theorem interpretReadCo2_cur (s : State) : (interpretReadCo2 s).cur = s.cur := rfl
@[simp] theorem interpretReadCo2_status (s : State) : (interpretReadCo2 s).status = s.status := rfl
@[simp] theorem interpretReadCo2_sums (s : State) : (interpretReadCo2 s).sums = s.sums := rfl
@[simp] theorem interpretReadCo2_raw (s : State) : (interpretReadCo2 s).raw = s.raw := rfl
@[simp] theorem interpretReadCo2_typed (s : State) : (interpretReadCo2 s).typed = readCo2Of s.cfg s.raw.res s.typed := rfl
@[simp] theorem interpretReadCo2_done (s : State) : (interpretReadCo2 s).done = s.done := rfl
@[simp] theorem interpretReadCo2_chan (s : State) : (interpretReadCo2 s).chan = s.chan := rfl
@[simp] theorem interpretReadCo2_script (s : State) : (interpretReadCo2 s).script = s.script := rfl
@[simp] theorem interpretReadCo2_hostIn (s : State) : (interpretReadCo2 s).hostIn = s.hostIn := rfl
@[simp] theorem interpretReadCo2_calls (s : State) : (interpretReadCo2 s).calls = s.calls := rfl
@[simp] theorem interpretReadCo2_cfg (s : State) : (interpretReadCo2 s).cfg = s.cfg := rfl
@[simp] theorem interpretReadCo2_draws (s : State) : (interpretReadCo2 s).draws = s.draws := rfl
@[simp] theorem interpretReadTemp_handle (s : State) : (interpretReadTemp s).handle = s.handle := rfl
@[simp] theorem interpretReadTemp_phase (s : State) : (interpretReadTemp s).phase = s.phase := rfl
@[simp] theorem interpretReadTemp_frames (s : State) : (interpretReadTemp s).frames = s.frames := rfl
@[simp] theorem interpretReadTemp_cur (s : State) : (interpretReadTemp s).cur = s.cur := rfl
@[simp] theorem interpretReadTemp_status (s : State) : (interpretReadTemp s).status = s.status := rfl
@[simp] theorem interpretReadTemp_sums (s : State) : (interpretReadTemp s).sums = s.sums := rfl
@[simp] theorem interpretReadTemp_raw (s : State) : (interpretReadTemp s).raw = s.raw := rfl
@[simp] theorem interpretReadTemp_typed (s : State) : (interpretReadTemp s).typed = { s.typed with tempRaw := u16be s.raw.res[2] s.raw.res[3] } := rfl
@[simp] theorem interpretReadTemp_done (s : State) : (interpretReadTemp s).done = s.done := rfl
@[simp] theorem interpretReadTemp_chan (s : State) : (interpretReadTemp s).chan = s.chan := rfl
@[simp] theorem interpretReadTemp_script (s : State) : (interpretReadTemp s).script = s.script := rfl
@[simp] theorem interpretReadTemp_hostIn (s : State) : (interpretReadTemp s).hostIn = s.hostIn := rfl
@[simp] theorem interpretReadTemp_calls (s : State) : (interpretReadTemp s).calls = s.calls := rfl
@[simp] theorem interpretReadTemp_cfg (s : State) : (interpretReadTemp s).cfg = s.cfg := rfl
@[simp] theorem interpretReadTemp_draws (s : State) : (interpretReadTemp s).draws = s.draws := rfl
@[simp] theorem interpretGetAbc_handle (s : State) : (interpretGetAbc s).handle = s.handle := rfl
@[simp] theorem interpretGetAbc_phase (s : State) : (interpretGetAbc s).phase = s.phase := rfl
@[simp] theorem interpretGetAbc_frames (s : State) : (interpretGetAbc s).frames = s.frames := rfl
@[simp] theorem interpretGetAbc_cur (s : State) : (interpretGetAbc s).cur = s.cur := rfl
@[simp] theorem interpretGetAbc_status (s : State) : (interpretGetAbc s).status = s.status := rfl
@[simp] theorem interpretGetAbc_sums (s : State) : (interpretGetAbc s).sums = s.sums := rfl
@[simp] theorem interpretGetAbc_raw (s : State) : (interpretGetAbc s).raw = s.raw := rfl
@[simp] theorem interpretGetAbc_typed (s : State) : (interpretGetAbc s).typed = { s.typed with abcOn := flagOfByte s.raw.res[s.cfg.abcFlagIndex] } := rfl
@[simp] theorem interpretGetAbc_done (s : State) : (interpretGetAbc s).done = s.done := rfl
@[simp] theorem interpretGetAbc_chan (s : State) : (interpretGetAbc s).chan = s.chan := rfl
@[simp] theorem interpretGetAbc_script (s : State) : (interpretGetAbc s).script = s.script := rfl
@[simp] theorem interpretGetAbc_hostIn (s : State) : (interpretGetAbc s).hostIn = s.hostIn := rfl
@[simp] theorem interpretGetAbc_calls (s : State) : (interpretGetAbc s).calls = s.calls := rfl
@[simp] theorem interpretGetAbc_cfg (s : State) : (interpretGetAbc s).cfg = s.cfg := rfl
@[simp] theorem interpretGetAbc_draws (s : State) : (interpretGetAbc s).draws = s.draws := rfl
@[simp] theorem interpretGetVersion_handle (s : State) : (interpretGetVersion s).handle = { s.handle with ver := versionOf s.raw.res, verValid := true } := rfl
@[simp] theorem interpretGetVersion_phase (s : State) : (interpretGetVersion s).phase = s.phase := rfl
@[simp] theorem interpretGetVersion_frames (s : State) : (interpretGetVersion s).frames = s.frames := rfl
@[simp] theorem interpretGetVersion_cur (s : State) : (interpretGetVersion s).cur = s.cur := rfl
@[simp] theorem interpretGetVersion_status (s : State) : (interpretGetVersion s).status = s.status := rfl
@[simp] theorem interpretGetVersion_sums (s : State) : (interpretGetVersion s).sums = s.sums := rfl
@[simp] theorem interpretGetVersion_raw (s : State) : (interpretGetVersion s).raw = s.raw := rfl
@[simp] theorem interpretGetVersion_typed (s : State) : (interpretGetVersion s).typed = s.typed := rfl
@[simp] theorem interpretGetVersion_done (s : State) : (interpretGetVersion s).done = s.done := rfl
@[simp] theorem interpretGetVersion_chan (s : State) : (interpretGetVersion s).chan = s.chan := rfl
@[simp] theorem interpretGetVersion_script (s : State) : (interpretGetVersion s).script = s.script := rfl
@[simp] theorem interpretGetVersion_hostIn (s : State) : (interpretGetVersion s).hostIn = s.hostIn := rfl
@[simp] theorem interpretGetVersion_calls (s : State) : (interpretGetVersion s).calls = s.calls := rfl
@[simp] theorem interpretGetVersion_cfg (s : State) : (interpretGetVersion s).cfg = s.cfg := rfl
@[simp] theorem interpretGetVersion_draws (s : State) : (interpretGetVersion s).draws = s.draws := rfl
@[simp] theorem clearResult_handle (s : State) : (clearResult s).handle = s.handle := rfl
@[simp] theorem clearResult_phase (s : State) : (clearResult s).phase = s.phase := rfl
@[simp] theorem clearResult_frames (s : State) : (clearResult s).frames = s.frames := rfl
@[simp] theorem clearResult_cur (s : State) : (clearResult s).cur = s.cur := rfl
@[simp] theorem clearResult_status (s : State) : (clearResult s).status = s.status := rfl
@[simp] theorem clearResult_sums (s : State) : (clearResult s).sums = s.sums := rfl
@[simp] theorem clearResult_raw (s : State) : (clearResult s).raw = { s.raw with resLen := 0 } := rfl
@[simp] theorem clearResult_typed (s : State) : (clearResult s).typed = s.typed := rfl
@[simp] theorem clearResult_done (s : State) : (clearResult s).done = s.done := rfl
@[simp] theorem clearResult_chan (s : State) : (clearResult s).chan = s.chan := rfl
@[simp] theorem clearResult_script (s : State) : (clearResult s).script = s.script := rfl
@[simp] theorem clearResult_hostIn (s : State) : (clearResult s).hostIn = s.hostIn := rfl
@[simp] theorem clearResult_calls (s : State) : (clearResult s).calls = s.calls := rfl
@[simp] theorem clearResult_cfg (s : State) : (clearResult s).cfg = s.cfg := rfl
@[simp] theorem clearResult_draws (s : State) : (clearResult s).draws = s.draws := rfl
@[simp] theorem openRegs_handle (s : State) : (openRegs s).handle = { s.handle with hs := .opened, verbose := s.cur.arg, verValid := false } := rfl
@[simp] theorem openRegs_phase (s : State) : (openRegs s).phase = s.phase := rfl
@[simp] theorem openRegs_frames (s : State) : (openRegs s).frames = { s.frames with probeCnt := 0 } := rfl
@[simp] theorem openRegs_cur (s : State) : (openRegs s).cur = s.cur := rfl
@[simp] theorem openRegs_status (s : State) : (openRegs s).status = s.status := rfl
@[simp] theorem openRegs_sums (s : State) : (openRegs s).sums = s.sums := rfl
@[simp] theorem openRegs_raw (s : State) : (openRegs s).raw = s.raw := rfl
@[simp] theorem openRegs_typed (s : State) : (openRegs s).typed = s.typed := rfl
@[simp] theorem openRegs_done (s : State) : (openRegs s).done = s.done := rfl
@[simp] theorem openRegs_chan (s : State) : (openRegs s).chan = s.chan := rfl
@[simp] theorem openRegs_script (s : State) : (openRegs s).script = s.script := rfl
@[simp] theorem openRegs_hostIn (s : State) : (openRegs s).hostIn = s.hostIn := rfl
@[simp] theorem openRegs_calls (s : State) : (openRegs s).calls = s.calls := rfl
@[simp] theorem openRegs_cfg (s : State) : (openRegs s).cfg = s.cfg := rfl
@[simp] theorem openRegs_draws (s : State) : (openRegs s).draws = s.draws := rfl
@[simp] theorem countProbe_handle (s : State) : (countProbe s).handle = s.handle := rfl
@[simp] theorem countProbe_phase (s : State) : (countProbe s).phase = s.phase := rfl
@[simp] theorem countProbe_frames (s : State) : (countProbe s).frames = { s.frames with probeCnt := s.frames.probeCnt + 1 } := rfl
@[simp] theorem countProbe_cur (s : State) : (countProbe s).cur = s.cur := rfl
@[simp] theorem countProbe_status (s : State) : (countProbe s).status = s.status := rfl
@[simp] theorem countProbe_sums (s : State) : (countProbe s).sums = s.sums := rfl
@[simp] theorem countProbe_raw (s : State) : (countProbe s).raw = s.raw := rfl
@[simp] theorem countProbe_typed (s : State) : (countProbe s).typed = s.typed := rfl
@[simp] theorem countProbe_done (s : State) : (countProbe s).done = s.done := rfl
@[simp] theorem countProbe_chan (s : State) : (countProbe s).chan = s.chan := rfl
@[simp] theorem countProbe_script (s : State) : (countProbe s).script = s.script := rfl
@[simp] theorem countProbe_hostIn (s : State) : (countProbe s).hostIn = s.hostIn := rfl
@[simp] theorem countProbe_calls (s : State) : (countProbe s).calls = s.calls := rfl
@[simp] theorem countProbe_cfg (s : State) : (countProbe s).cfg = s.cfg := rfl
@[simp] theorem countProbe_draws (s : State) : (countProbe s).draws = s.draws := rfl
@[simp] theorem closeRegs_handle (s : State) : (closeRegs s).handle = { s.handle with hs := .closedDone, verValid := false } := rfl
@[simp] theorem closeRegs_phase (s : State) : (closeRegs s).phase = s.phase := rfl
@[simp] theorem closeRegs_frames (s : State) : (closeRegs s).frames = s.frames := rfl
@[simp] theorem closeRegs_cur (s : State) : (closeRegs s).cur = s.cur := rfl
@[simp] theorem closeRegs_status (s : State) : (closeRegs s).status = s.status := rfl
@[simp] theorem closeRegs_sums (s : State) : (closeRegs s).sums = s.sums := rfl
@[simp] theorem closeRegs_raw (s : State) : (closeRegs s).raw = s.raw := rfl
@[simp] theorem closeRegs_typed (s : State) : (closeRegs s).typed = s.typed := rfl
@[simp] theorem closeRegs_done (s : State) : (closeRegs s).done = s.done := rfl
@[simp] theorem closeRegs_chan (s : State) : (closeRegs s).chan = s.chan := rfl
@[simp] theorem closeRegs_script (s : State) : (closeRegs s).script = s.script := rfl
@[simp] theorem closeRegs_hostIn (s : State) : (closeRegs s).hostIn = s.hostIn := rfl
@[simp] theorem closeRegs_calls (s : State) : (closeRegs s).calls = s.calls := rfl
@[simp] theorem closeRegs_cfg (s : State) : (closeRegs s).cfg = s.cfg := rfl
@[simp] theorem closeRegs_draws (s : State) : (closeRegs s).draws = s.draws := rfl
@[simp] theorem beginProbe_handle (s : State) : (beginProbe s).handle = s.handle := rfl
@[simp] theorem beginProbe_phase (s : State) : (beginProbe s).phase = .chOpen := rfl
@[simp] theorem beginProbe_frames (s : State) : (beginProbe s).frames = { s.frames with probeCnt := 0 } := rfl
@[simp] theorem beginProbe_cur (s : State) : (beginProbe s).cur = s.cur := rfl
@[simp] theorem beginProbe_status (s : State) : (beginProbe s).status = s.status := rfl
@[simp] theorem beginProbe_sums (s : State) : (beginProbe s).sums = s.sums := rfl
@[simp] theorem beginProbe_raw (s : State) : (beginProbe s).raw = s.raw := rfl
@[simp] theorem beginProbe_typed (s : State) : (beginProbe s).typed = s.typed := rfl
@[simp] theorem beginProbe_done (s : State) : (beginProbe s).done = s.done := rfl
@[simp] theorem beginProbe_chan (s : State) : (beginProbe s).chan = s.chan := rfl
@[simp] theorem beginProbe_script (s : State) : (beginProbe s).script = s.script := rfl
@[simp] theorem beginProbe_hostIn (s : State) : (beginProbe s).hostIn = s.hostIn := rfl
@[simp] theorem beginProbe_calls (s : State) : (beginProbe s).calls = s.calls := rfl
@[simp] theorem beginProbe_cfg (s : State) : (beginProbe s).cfg = s.cfg := rfl
@[simp] theorem beginProbe_draws (s : State) : (beginProbe s).draws = s.draws := rfl

/-! ## The request port and reset -/

@[simp] theorem dropHost_handle (s : State) : (s.dropHost).handle = s.handle := rfl
@[simp] theorem dropHost_phase (s : State) : (s.dropHost).phase = s.phase := rfl
@[simp] theorem dropHost_frames (s : State) : (s.dropHost).frames = s.frames := rfl
@[simp] theorem dropHost_cur (s : State) : (s.dropHost).cur = s.cur := rfl
@[simp] theorem dropHost_status (s : State) : (s.dropHost).status = s.status := rfl
@[simp] theorem dropHost_sums (s : State) : (s.dropHost).sums = s.sums := rfl
@[simp] theorem dropHost_raw (s : State) : (s.dropHost).raw = s.raw := rfl
@[simp] theorem dropHost_typed (s : State) : (s.dropHost).typed = s.typed := rfl
@[simp] theorem dropHost_done (s : State) : (s.dropHost).done = s.done := rfl
@[simp] theorem dropHost_chan (s : State) : (s.dropHost).chan = s.chan := rfl
@[simp] theorem dropHost_script (s : State) : (s.dropHost).script = s.script := rfl
@[simp] theorem dropHost_hostIn (s : State) : (s.dropHost).hostIn = s.hostIn.drop 1 := rfl
@[simp] theorem dropHost_calls (s : State) : (s.dropHost).calls = s.calls := rfl
@[simp] theorem dropHost_cfg (s : State) : (s.dropHost).cfg = s.cfg := rfl
@[simp] theorem dropHost_draws (s : State) : (s.dropHost).draws = s.draws := rfl
@[simp] theorem present_handle (s : State) (r : HostReq) : (s.present r).handle = s.handle := rfl
@[simp] theorem present_phase (s : State) (r : HostReq) : (s.present r).phase = .idle := rfl
@[simp] theorem present_frames (s : State) (r : HostReq) : (s.present r).frames = s.frames := rfl
@[simp] theorem present_cur (s : State) (r : HostReq) : (s.present r).cur = s.cur := rfl
@[simp] theorem present_status (s : State) (r : HostReq) : (s.present r).status = s.status := rfl
@[simp] theorem present_sums (s : State) (r : HostReq) : (s.present r).sums = s.sums := rfl
@[simp] theorem present_raw (s : State) (r : HostReq) : (s.present r).raw = s.raw := rfl
@[simp] theorem present_typed (s : State) (r : HostReq) : (s.present r).typed = s.typed := rfl
@[simp] theorem present_done (s : State) (r : HostReq) : (s.present r).done = s.done := rfl
@[simp] theorem present_chan (s : State) (r : HostReq) : (s.present r).chan = s.chan := rfl
@[simp] theorem present_script (s : State) (r : HostReq) : (s.present r).script = s.script := rfl
@[simp] theorem present_hostIn (s : State) (r : HostReq) : (s.present r).hostIn = .request r :: s.hostIn := rfl
@[simp] theorem present_calls (s : State) (r : HostReq) : (s.present r).calls = s.calls := rfl
@[simp] theorem present_cfg (s : State) (r : HostReq) : (s.present r).cfg = s.cfg := rfl
@[simp] theorem present_draws (s : State) (r : HostReq) : (s.present r).draws = s.draws := rfl
@[simp] theorem resetBlock_handle (s : State) : (resetBlock s).handle = State.reset.handle := rfl
@[simp] theorem resetBlock_phase (s : State) : (resetBlock s).phase = State.reset.phase := rfl
@[simp] theorem resetBlock_frames (s : State) : (resetBlock s).frames = State.reset.frames := rfl
@[simp] theorem resetBlock_cur (s : State) : (resetBlock s).cur = State.reset.cur := rfl
@[simp] theorem resetBlock_status (s : State) : (resetBlock s).status = State.reset.status := rfl
@[simp] theorem resetBlock_sums (s : State) : (resetBlock s).sums = State.reset.sums := rfl
@[simp] theorem resetBlock_raw (s : State) : (resetBlock s).raw = State.reset.raw := rfl
@[simp] theorem resetBlock_typed (s : State) : (resetBlock s).typed = State.reset.typed := rfl
@[simp] theorem resetBlock_done (s : State) : (resetBlock s).done = s.done := rfl
@[simp] theorem resetBlock_chan (s : State) : (resetBlock s).chan = s.chan := rfl
@[simp] theorem resetBlock_script (s : State) : (resetBlock s).script = s.script := rfl
@[simp] theorem resetBlock_hostIn (s : State) : (resetBlock s).hostIn = s.hostIn := rfl
@[simp] theorem resetBlock_calls (s : State) : (resetBlock s).calls = s.calls := rfl
@[simp] theorem resetBlock_cfg (s : State) : (resetBlock s).cfg = s.cfg := rfl
@[simp] theorem resetBlock_draws (s : State) : (resetBlock s).draws = s.draws := rfl

end Sys2Proof.Machine
end

