-- ==== Sys2Proof/Laws/Channel.lean ====
section
/-!
SUPPORT. What each channel call can do: one lemma per call for the answer it takes from the script, and one that says
everything a call that answers next has done to the state.
-/

namespace Sys2Proof.Machine

/-! ## Going on -/

@[simp] theorem andThen_next {α β : Type} (a : α) (f : α → Host.Outcome β Fault Refusal) :
    andThen (.next a) f = f a := rfl
@[simp] theorem andThen_fault {α β : Type} (r : Fault) (f : α → Host.Outcome β Fault Refusal) :
    andThen (.fault r) f = .fault r := rfl
@[simp] theorem andThen_refused {α β : Type} (r : Refusal) (f : α → Host.Outcome β Fault Refusal) :
    andThen (.refused r) f = .refused r := rfl

/-- A sequence answers next exactly when both parts do. -/
theorem andThen_eq_next {α β : Type} {x : Host.Outcome α Fault Refusal} {f : α → Host.Outcome β Fault Refusal} {b : β} :
    andThen x f = .next b ↔ ∃ a, x = .next a ∧ f a = .next b := by
  cases x <;> simp [andThen]

/-- A sequence is refused exactly when one of its parts is. -/
theorem andThen_eq_refused {α β : Type} {x : Host.Outcome α Fault Refusal} {f : α → Host.Outcome β Fault Refusal}
    {r : Refusal} : andThen x f = .refused r ↔ x = .refused r ∨ ∃ a, x = .next a ∧ f a = .refused r := by
  cases x <;> simp [andThen]

/-- A sequence faults exactly when one of its parts does. -/
theorem andThen_eq_fault {α β : Type} {x : Host.Outcome α Fault Refusal} {f : α → Host.Outcome β Fault Refusal}
    {r : Fault} : andThen x f = .fault r ↔ x = .fault r ∨ ∃ a, x = .next a ∧ f a = .fault r := by
  cases x <;> simp [andThen]

/-! ## The next answer -/

/-- Taking an answer touches only the script and the draw counter. -/
theorem nextAnswer_state (free : ChAnswer) (s : State) :
    ∃ sc d, (nextAnswer free s).2 = { s with script := sc, draws := d } := by
  unfold nextAnswer
  split
  · exact ⟨s.script, s.draws + 1, rfl⟩
  · exact ⟨_, s.draws, rfl⟩

theorem nextAnswer_scripted {free a : ChAnswer} {s : State} {rest : List ChAnswer} (h : s.script = a :: rest) :
    nextAnswer free s = (a, { s with script := rest }) := by
  simp [nextAnswer, h]

theorem nextAnswer_free {free : ChAnswer} {s : State} (h : s.script = []) :
    nextAnswer free s = (free, { s with draws := s.draws + 1 }) := by
  simp [nextAnswer, h]

/-! ## Calls answered by the script -/

theorem chOpen_scripted {s : State} {ok : Bool} {rest : List ChAnswer} (h : s.script = .opened ok :: rest) :
    chOpen s = .next (ok, ({ s with script := rest } : State).called (.open ok)
      { s.chan with established := ok || s.chan.established }) := by
  simp [chOpen, nextAnswer_scripted h]

theorem chClose_scripted {s : State} {rest : List ChAnswer} (he : s.chan.established = true)
    (h : s.script = .closed :: rest) :
    chClose s = .next (({ s with script := rest } : State).called .close { s.chan with established := false }) := by
  simp [chClose, nextAnswer_scripted h, he]

theorem chFlush_scripted {s : State} {e : LineEvent} {rest : List ChAnswer} (he : s.chan.established = true)
    (h : s.script = .flushed e :: rest) :
    chFlush s = .next (({ s with script := rest } : State).called .flush
      (({ s.chan with inBuf := [] } : Channel).move e)) := by
  simp [chFlush, nextAnswer_scripted h, he]

theorem chWrite_scripted {s : State} {k : Nat} {e : LineEvent} {rest : List ChAnswer}
    (he : s.chan.established = true) (h : s.script = .wrote k e :: rest) (hk : k ≤ 9) :
    chWrite s = .next (k, ({ s with script := rest } : State).called (.write s.frames.txf k)
      (({ s.chan with outBuf := s.chan.outBuf ++ s.frames.txf.toList.take k } : Channel).move e)) := by
  have h9 : (k : Int) ≤ 9 := by omega
  simp [chWrite, nextAnswer_scripted h, he, h9]

theorem chRead_scripted {s : State} {n k : Nat} {e : LineEvent} {rest : List ChAnswer}
    (he : s.chan.established = true) (h : s.script = .gave k e :: rest) (hn : k ≤ n)
    (hk : k ≤ s.chan.inBuf.length + e.arrive.length) :
    chRead n s = .next ((s.chan.inBuf ++ e.arrive).take k, ({ s with script := rest } : State).called
      (.read n ((s.chan.inBuf ++ e.arrive).take k))
      { s.chan.move e with inBuf := (s.chan.inBuf ++ e.arrive).drop k }) := by
  have hn' : (k : Int) ≤ n := by omega
  have hk' : (k : Int) ≤ s.chan.inBuf.length + e.arrive.length := by omega
  simp [chRead, nextAnswer_scripted h, he, hn', hk', Channel.move]

/-! ## Everything a call that answers next has done -/

theorem chOpen_next {s : State} {r : Bool × State} (h : chOpen s = .next r) :
    ∃ sc d, r.2 = { s with
      script := sc, draws := d, calls := s.calls ++ [.open r.1]
      chan := { s.chan with established := r.1 || s.chan.established } } := by
  obtain ⟨sc, d, hs⟩ := nextAnswer_state (.opened (Config.freeBool s.draws 0)) s
  unfold chOpen at h
  simp only at h
  split at h
  · cases h; exact ⟨sc, d, by simp only [State.called, hs]⟩
  · cases h
  · cases h

theorem chClose_next {s t : State} (h : chClose s = .next t) :
    s.chan.established = true ∧ ∃ sc d, t = { s with
      script := sc, draws := d, calls := s.calls ++ [.close]
      chan := { s.chan with established := false } } := by
  obtain ⟨sc, d, hs⟩ := nextAnswer_state .closed s
  unfold chClose at h
  simp only at h
  split at h
  · rename_i he
    split at h
    · cases h; exact ⟨he, sc, d, by simp only [State.called, hs]⟩
    · cases h
    · cases h
  · cases h

theorem chFlush_next {s t : State} (h : chFlush s = .next t) :
    s.chan.established = true ∧ ∃ sc d e, t = { s with
      script := sc, draws := d, calls := s.calls ++ [.flush]
      chan := ({ s.chan with inBuf := [] } : Channel).move e } := by
  obtain ⟨sc, d, hs⟩ := nextAnswer_state (.flushed (freeEvent s.draws)) s
  unfold chFlush at h
  simp only at h
  split at h
  · rename_i he
    split at h
    · rename_i e _
      cases h; exact ⟨he, sc, d, e, by simp only [State.called, hs]⟩
    · cases h
    · cases h
  · cases h

theorem chWrite_next {s : State} {r : Nat × State} (h : chWrite s = .next r) :
    s.chan.established = true ∧ r.1 ≤ 9 ∧
      ∃ sc d e, r.2 = { s with
        script := sc, draws := d, calls := s.calls ++ [.write s.frames.txf r.1]
        chan := ({ s.chan with outBuf := s.chan.outBuf ++ s.frames.txf.toList.take r.1 } : Channel).move e } := by
  obtain ⟨sc, d, hs⟩ := nextAnswer_state
    (.wrote (min (Config.freeNat s.draws 1) 9 : Nat) (freeEvent s.draws)) s
  unfold chWrite at h
  simp only at h
  split at h
  · rename_i he
    split at h
    · split at h
      · rename_i e _ hk
        cases h; exact ⟨he, by simp only; omega, sc, d, e, by simp only [State.called, hs]⟩
      · cases h
    · cases h
    · cases h
  · cases h

theorem chRead_next {n : Nat} {s : State} {r : List Byte × State} (h : chRead n s = .next r) :
    s.chan.established = true ∧ r.1.length ≤ n ∧
      ∃ sc d e, r.2 = { s with
        script := sc, draws := d, calls := s.calls ++ [.read n r.1]
        chan := { s.chan.move e with inBuf := (s.chan.move e).inBuf.drop r.1.length } } ∧
        r.1 <+: (s.chan.move e).inBuf := by
  obtain ⟨sc, d, hs⟩ := nextAnswer_state
    (.gave (min (Config.freeNat s.draws 1) (min n (s.chan.move (freeEvent s.draws)).inBuf.length) : Nat)
      (freeEvent s.draws)) s
  unfold chRead at h
  simp only at h
  split at h
  · rename_i he
    split at h
    · split at h
      · rename_i count e _ hk
        obtain ⟨h0, h1, h2⟩ := hk
        have hl : ((s.chan.move e).inBuf.take count.toNat).length = count.toNat := by
          rw [List.length_take]; omega
        cases h
        exact ⟨he, by simp only [hl]; omega, sc, d, e, by simp only [State.called, hs, hl], List.take_prefix _ _⟩
      · cases h
    · cases h
    · cases h
  · cases h

/-! ## The streams (10_state.md R38, 20_memory.md R50) -/

theorem rxs_of_calls {s t : State} (h : t.calls = s.calls) : t.rxs = s.rxs := by simp [State.rxs, h]

theorem txs_of_calls {s t : State} (h : t.calls = s.calls) : t.txs = s.txs := by simp [State.txs, h]

/-- One more call does to RXS what `rxsAfter` says. -/
theorem rxs_of_call {s t : State} {k : ChCall} (h : t.calls = s.calls ++ [k]) : t.rxs = rxsAfter s.rxs k := by
  simp [State.rxs, h]

/-- One more write hands its nine bytes to TXS. -/
theorem txs_of_write {s t : State} {f : Frame} {n : Nat} (h : t.calls = s.calls ++ [.write f n]) :
    t.txs = s.txs ++ f.toList := by
  simp [State.txs, h]

/-- One more call that is no write does not reach TXS. -/
theorem txs_of_call {s t : State} {k : ChCall} (h : t.calls = s.calls ++ [k]) (hk : ∀ f n, k ≠ .write f n) :
    t.txs = s.txs := by
  cases k with
  | write f n => exact absurd rfl (hk f n)
  | _ => simp [State.txs, h]

/-! ## Calls with a free answer -/

/-- With the script used up a call on an established channel always returns an answer of the contract. -/
theorem chFlush_free {s : State} (he : s.chan.established = true) (h : s.script = []) :
    ∃ t, chFlush s = .next t ∧ t.script = [] := by
  simp [chFlush, nextAnswer_free h, he, h]

theorem chWrite_free {s : State} (he : s.chan.established = true) (h : s.script = []) :
    ∃ r, chWrite s = .next r ∧ r.2.script = [] := by
  have h0 : (0 : Int) ≤ (min (Config.freeNat s.draws 1) 9 : Nat) := by omega
  have h9 : ((min (Config.freeNat s.draws 1) 9 : Nat) : Int) ≤ 9 := by omega
  unfold chWrite
  simp only [nextAnswer_free h, he, if_true]
  rw [if_pos ⟨h0, h9⟩]
  exact ⟨_, rfl, h⟩

theorem chRead_free {n : Nat} {s : State} (he : s.chan.established = true) (h : s.script = []) :
    ∃ r, chRead n s = .next r ∧ r.2.script = [] := by
  unfold chRead
  simp only [nextAnswer_free h, he, if_true]
  rw [if_pos (by omega)]
  exact ⟨_, rfl, h⟩

end Sys2Proof.Machine
end

