-- ==== Sys2Proof/Laws/Codec.lean ====
section
/-!
SUPPORT. Small lemmas about the codec and the placing of received bytes (40_codec.md, 41_transceiver.md R133).
-/

namespace Sys2Proof.Machine

/-- The checksum reads bytes 1 to 7 only (40_codec.md R110). -/
theorem checksum_congr {b c : Frame} (h : checksumSum b = checksumSum c) : checksum b = checksum c := by
  simp [checksum, h]

/-- The checksum as a number (40_codec.md R110). -/
theorem checksum_toNat (b : Frame) : (checksum b).toNat = (256 - checksumSum b % 256) % 256 := by
  simp [checksum]
  omega

/-- Two frames have the same checksum exactly when their sums agree modulo 256. -/
theorem checksum_eq_iff (b c : Frame) : checksum b = checksum c ↔ checksumSum b % 256 = checksumSum c % 256 := by
  rw [← BitVec.toNat_inj, checksum_toNat, checksum_toNat]
  omega

/-- The bytes of a frame, one by one. -/
theorem frame_toList (f : Frame) : f.toList = [f[0], f[1], f[2], f[3], f[4], f[5], f[6], f[7], f[8]] := by
  apply List.ext_getElem
  · simp
  · intro i h1 h2
    simp at h1
    match i, h1 with
    | 0, _ | 1, _ | 2, _ | 3, _ | 4, _ | 5, _ | 6, _ | 7, _ | 8, _ => simp

/-- The sum the statements speak of is the sum the checksum is computed from. -/
theorem coveredSum_eq (f : Frame) : coveredSum f = checksumSum f := by
  simp [coveredSum, checksumSum, frame_toList]
  omega

/-- One covered byte replaced (40_codec.md R111). -/
theorem checksumSum_set (b : Frame) (i : Nat) (h : i < 9) (h1 : 1 ≤ i) (h7 : i ≤ 7) (v : Byte) :
    checksumSum (b.set i v) + b[i].toNat = checksumSum b + v.toNat := by
  match i, h, h1, h7 with
  | 1, _, _, _ | 2, _, _, _ | 3, _, _, _ | 4, _, _, _ | 5, _, _, _ | 6, _, _, _ | 7, _, _, _ =>
    simp [checksumSum]; omega

/-- ENCODE of at most five bytes (40_codec.md R112). -/
theorem codecEncode_of_le {cmd : Byte} {pl : List Byte} {n : Nat} (h : n ≤ 5) :
    codecEncode cmd pl n = some ((#v[0xFF, 0x01, cmd, paddedByte pl n 0, paddedByte pl n 1, paddedByte pl n 2,
      paddedByte pl n 3, paddedByte pl n 4, 0x00] : Frame).set 8 (checksum #v[0xFF, 0x01, cmd, paddedByte pl n 0,
      paddedByte pl n 1, paddedByte pl n 2, paddedByte pl n 3, paddedByte pl n 4, 0x00])) := by
  have : ¬ 5 < n := by omega
  simp [codecEncode, this]

/-- DECODE of a frame whose checksum is right (40_codec.md R114). -/
theorem codecDecode_valid {f : Frame} (h : checksum f = f[8]) :
    codecDecode f = .ok { rcmd := f[2], rpay := framePayload f } := by
  simp [codecDecode, h]

/-- DECODE of a frame whose checksum is wrong (40_codec.md R114, 60_exceptions.md R216). -/
theorem codecDecode_invalid {f : Frame} (h : checksum f ≠ f[8]) :
    codecDecode f = .error { expected := checksum f, actual := f[8] } := by
  simp [codecDecode, h]

/-- Bytes received in two calls are placed as the same bytes in one call (20_memory.md R61). -/
theorem storeBytes_append (f : Frame) (i : Nat) (a b : List Byte) :
    storeBytes f i (a ++ b) = storeBytes (storeBytes f i a) (i + a.length) b := by
  induction a generalizing f i with
  | nil => simp [storeBytes]
  | cons x xs ih =>
    simp only [List.cons_append, storeBytes, ih, List.length_cons]
    congr 1
    omega

/-- A byte in front of the place written is kept. -/
theorem storeBytes_before (f : Frame) (i j : Nat) (bs : List Byte) (hj : j < 9) (h : j < i) :
    (storeBytes f i bs)[j] = f[j] := by
  induction bs generalizing f i with
  | nil => rfl
  | cons x xs ih =>
    rw [storeBytes, ih _ _ (by omega), Vector.getElem_setIfInBounds_ne (by omega) (by omega)]

/-- A byte written is the byte received (41_transceiver.md R133). -/
theorem storeBytes_at (f : Frame) (i j : Nat) (bs : List Byte) (hj : i + j < 9) (h : j < bs.length) :
    (storeBytes f i bs)[i + j] = bs[j] := by
  induction bs generalizing f i j with
  | nil => simp at h
  | cons x xs ih =>
    rw [storeBytes]
    cases j with
    | zero =>
      rw [storeBytes_before _ _ _ _ _ (by omega)]
      simp
    | succ k =>
      have := ih (f.setIfInBounds i x) (i + 1) k (by omega) (by simpa using h)
      simp only [List.getElem_cons_succ, ← this]
      congr 1
      omega

/-- Nine bytes placed from index 0 are the frame (20_memory.md R52). -/
theorem storeBytes_full (f g : Frame) : storeBytes f 0 g.toList = g := by
  apply Vector.ext
  intro i hi
  have h := storeBytes_at f 0 i g.toList (by omega) (by simpa using hi)
  simpa using h

end Sys2Proof.Machine
end

