-- ==== Sys2Proof/Laws/Run.lean ====
section
/-!
SUPPORT. What a row can do, that every operation ends (41_transceiver.md R141), and how a run of rows is followed step
by step without counting them.
-/

namespace Sys2Proof.Machine

/-! ## The callers of an exchange -/

/-- A failed exchange: OPEN's probe goes on, a command ends with the error (43_handle.md R192, 42_commands.md R161). -/
theorem exchangeFailed_eq (e : OpError) (s : State) :
    exchangeFailed e s = if s.cur.op = .openOp then probeNext s else raise e s := by
  unfold exchangeFailed
  cases s.cur.op <;> simp

theorem exchangeFailed_command {e : OpError} {s : State} (h : s.cur.op ≠ .openOp) :
    exchangeFailed e s = raise e s := by
  simp [exchangeFailed_eq, h]

/-- What a command that is not OPEN does with a successful exchange, before it completes (42_commands.md R160). -/
def interpret (s : State) : State :=
  match s.cur.op with
  | .readCo2 => interpretReadCo2 s
  | .readTemp => interpretReadTemp s
  | .getAbc => interpretGetAbc s
  | .getVersion => interpretGetVersion s
  | .openOp => interpretGetVersion s
  | .closeOp => s
  | .setAbc => s
  | .zeroCal => s

theorem exchangeSucceeded_eq (s : State) :
    exchangeSucceeded s = if s.cur.op = .openOp then probeNext (interpret s) else complete (interpret s) := by
  unfold exchangeSucceeded interpret
  cases s.cur.op <;> simp

/-- The probe's next move: another exchange, or OPEN completes (43_handle.md R192). -/
theorem probeNext_cases (s : State) :
    (s.frames.probeCnt < s.cfg.openVersionTries ∧ s.handle.verValid = false ∧
      probeNext s = startExchange (countProbe s)) ∨
    ((s.cfg.openVersionTries ≤ s.frames.probeCnt ∨ s.handle.verValid = true) ∧ probeNext s = completeOpen s) := by
  unfold probeNext
  split
  · rename_i h
    exact .inl ⟨h.1, h.2, rfl⟩
  · rename_i h
    refine .inr ⟨?_, rfl⟩
    cases hv : s.handle.verValid with
    | true => exact .inr rfl
    | false => exact .inl (by simp [hv] at h; omega)

/-! ## Rows: everything a row that answers next has done -/

/-- The channel call of a row: what it may change and nothing else. -/
def ChannelMoved (s t : State) : Prop :=
  ∃ sc d cs ch, t = { s with script := sc, draws := d, calls := cs, chan := ch }

theorem tick_flush {s t : State} (hp : s.phase = .flush) (h : tick s = .next t) :
    ∃ u, chFlush s = .next u ∧ t = toPhase .write u := by
  simp only [tick, hp, flushRow, andThen_eq_next] at h
  obtain ⟨u, hu, ht⟩ := h
  cases ht
  exact ⟨u, hu, rfl⟩

theorem tick_write {s t : State} (hp : s.phase = .write) (h : tick s = .next t) :
    ∃ f r, codecEncode s.cur.cmd s.cur.pl s.cur.len = some f ∧ chWrite (loadFrame f s) = .next r ∧
      t = if r.1 < 9 then exchangeFailed .writeError r.2 else exchangeWritten r.2 := by
  simp only [tick, hp, writeRow] at h
  split at h
  · cases h
  · rename_i f hf
    obtain ⟨r, hr, ht⟩ := andThen_eq_next.mp h
    cases ht
    exact ⟨f, r, hf, hr, rfl⟩

theorem tick_read {s t : State} (hp : s.phase = .read) (h : tick s = .next t) :
    (s.frames.rxCnt < 9 ∧ s.frames.att < s.cfg.retryCeiling ∧
      ∃ r, chRead (9 - s.frames.rxCnt) s = .next r ∧ t = accumulate r.1 r.2) ∨
    (s.frames.rxCnt < 9 ∧ s.cfg.retryCeiling ≤ s.frames.att ∧ t = exchangeFailed .readTimeout s) ∨
    (9 ≤ s.frames.rxCnt ∧ t = toPhase .decode s) := by
  simp only [tick, hp, readRow] at h
  split at h
  · rename_i h9
    split at h
    · rename_i ha
      obtain ⟨r, hr, ht⟩ := andThen_eq_next.mp h
      cases ht
      exact .inl ⟨h9, ha, r, hr, rfl⟩
    · rename_i ha
      cases h
      exact .inr (.inl ⟨h9, by omega, rfl⟩)
  · rename_i h9
    cases h
    exact .inr (.inr ⟨by omega, rfl⟩)

theorem tick_decode {s t : State} (hp : s.phase = .decode) (h : tick s = .next t) :
    (checksum s.frames.rxf = s.frames.rxf[8] ∧
      t = exchangeSucceeded (storeDecoded { rcmd := s.frames.rxf[2], rpay := framePayload s.frames.rxf } s)) ∨
    (checksum s.frames.rxf ≠ s.frames.rxf[8] ∧
      t = exchangeFailed (.checksumMismatch { expected := checksum s.frames.rxf, actual := s.frames.rxf[8] })
        (storeMismatch { expected := checksum s.frames.rxf, actual := s.frames.rxf[8] } s)) := by
  simp only [tick, hp, decodeRow] at h
  by_cases hc : checksum s.frames.rxf = s.frames.rxf[8]
  · rw [codecDecode_valid hc] at h
    cases h
    exact .inl ⟨hc, rfl⟩
  · rw [codecDecode_invalid hc] at h
    cases h
    exact .inr ⟨hc, rfl⟩

theorem tick_chOpen {s t : State} (hp : s.phase = .chOpen) (h : tick s = .next t) :
    ∃ r, chOpen s = .next r ∧
      t = if r.1 then probeNext (openRegs r.2) else raise .channelOpenError r.2 := by
  simp only [tick, hp, chOpenRow, andThen_eq_next] at h
  obtain ⟨r, hr, ht⟩ := h
  cases ht
  exact ⟨r, hr, rfl⟩

theorem tick_chClose {s t : State} (hp : s.phase = .chClose) (h : tick s = .next t) :
    ∃ u, chClose s = .next u ∧ t = complete (closeRegs u) := by
  simp only [tick, hp, chCloseRow, andThen_eq_next] at h
  obtain ⟨u, hu, ht⟩ := h
  cases ht
  exact ⟨u, hu, rfl⟩

theorem tick_idle {s : State} (hp : s.phase = .idle) : tick s = .next s := by simp [tick, hp]

/-! ## Every operation ends (41_transceiver.md R141) -/

/-- Rows one exchange takes at most, with some to spare. -/
def exchangeRows (c : Config) : Nat := c.retryCeiling + 16

/-- Rows the probe's further exchanges can take. -/
def probeRows (s : State) : Nat :=
  if s.cur.op = .openOp then (s.cfg.openVersionTries - s.frames.probeCnt) * exchangeRows s.cfg else 0

theorem probeRows_congr {s t : State} (h1 : t.cur = s.cur) (h2 : t.cfg = s.cfg)
    (h3 : t.frames.probeCnt = s.frames.probeCnt) : probeRows t = probeRows s := by
  unfold probeRows
  rw [h1, h2, h3]

/-- A bound on the rows left to the end of the operation in progress; each row lowers it. -/
def rowsLeft (s : State) : Nat :=
  match s.phase with
  | .idle => 0
  | .chOpen => s.cfg.openVersionTries * exchangeRows s.cfg + 1
  | .flush => probeRows s + exchangeRows s.cfg
  | .write => probeRows s + exchangeRows s.cfg - 1
  | .read => probeRows s + 2 + (s.cfg.retryCeiling - s.frames.att) + (9 - s.frames.rxCnt)
  | .decode => probeRows s + 1
  | .chClose => 1

theorem rowsLeft_idle {s : State} (h : s.phase = .idle) : rowsLeft s = 0 := by simp [rowsLeft, h]

/-- The probe has rows left only for the tries that are left. -/
theorem rowsLeft_probeNext (s : State) :
    rowsLeft (probeNext s) ≤ (s.cfg.openVersionTries - s.frames.probeCnt) * exchangeRows s.cfg := by
  rcases probeNext_cases s with ⟨hp, -, he⟩ | ⟨-, he⟩
  · rw [he]
    obtain ⟨k, hk⟩ : ∃ k, s.cfg.openVersionTries - s.frames.probeCnt = k + 1 :=
      ⟨s.cfg.openVersionTries - s.frames.probeCnt - 1, by omega⟩
    have hk' : s.cfg.openVersionTries - (s.frames.probeCnt + 1) = k := by omega
    simp only [rowsLeft, startExchange_phase, probeRows, startExchange_cur, countProbe_cur, startExchange_cfg,
      countProbe_cfg, startExchange_frames, countProbe_frames, hk, hk', Nat.add_mul, Nat.one_mul]
    split <;> omega
  · rw [he, rowsLeft_idle (by simp)]
    exact Nat.zero_le _

theorem rowsLeft_exchangeFailed (e : OpError) (s : State) : rowsLeft (exchangeFailed e s) ≤ probeRows s := by
  rw [exchangeFailed_eq, probeRows]
  split
  · exact rowsLeft_probeNext s
  · rw [rowsLeft_idle (by simp)]

theorem interpret_phase (s : State) : (interpret s).phase = s.phase := by
  unfold interpret; cases s.cur.op <;> simp
theorem interpret_cfg (s : State) : (interpret s).cfg = s.cfg := by
  unfold interpret; cases s.cur.op <;> simp
theorem interpret_frames (s : State) : (interpret s).frames = s.frames := by
  unfold interpret; cases s.cur.op <;> simp

theorem rowsLeft_exchangeSucceeded (s : State) : rowsLeft (exchangeSucceeded s) ≤ probeRows s := by
  rw [exchangeSucceeded_eq, probeRows]
  split
  · have h := rowsLeft_probeNext (interpret s)
    rwa [interpret_cfg, interpret_frames] at h
  · rw [rowsLeft_idle (by simp)]

/-- Every row of a busy block lowers the bound. -/
theorem tick_decreases {s t : State} (hb : s.phase ≠ .idle) (h : tick s = .next t) : rowsLeft t < rowsLeft s := by
  cases hp : s.phase with
  | idle => exact absurd hp hb
  | chOpen =>
    obtain ⟨r, hr, rfl⟩ := tick_chOpen hp h
    obtain ⟨sc, d, hs⟩ := chOpen_next hr
    have hl : rowsLeft s = s.cfg.openVersionTries * exchangeRows s.cfg + 1 := by simp [rowsLeft, hp]
    split
    · have := rowsLeft_probeNext (openRegs r.2)
      simp only [openRegs_cfg, openRegs_frames, hs, Nat.sub_zero] at this
      simp only [hs, hl]
      omega
    · rw [rowsLeft_idle (by simp)]; omega
  | flush =>
    obtain ⟨u, hu, rfl⟩ := tick_flush hp h
    obtain ⟨-, sc, d, e, rfl⟩ := chFlush_next hu
    simp only [rowsLeft, hp, toPhase_phase, probeRows, toPhase_cur, toPhase_cfg, toPhase_frames, exchangeRows]
    omega
  | write =>
    obtain ⟨f, r, -, hr, rfl⟩ := tick_write hp h
    obtain ⟨-, -, sc, d, e, hs⟩ := chWrite_next hr
    have hl : rowsLeft s = probeRows s + exchangeRows s.cfg - 1 := by simp [rowsLeft, hp]
    have hpr : probeRows r.2 = probeRows s := by rw [hs]; exact probeRows_congr rfl rfl rfl
    have hc : r.2.cfg = s.cfg := by simp [hs]
    split
    · have := rowsLeft_exchangeFailed .writeError r.2
      rw [hl, ← hpr]
      simp only [exchangeRows]
      omega
    · unfold exchangeWritten
      split
      · rw [rowsLeft_idle (by simp), hl]; simp only [exchangeRows]; omega
      · have : probeRows (beginRead r.2) = probeRows s := by rw [hs]; exact probeRows_congr rfl rfl rfl
        simp only [rowsLeft, beginRead_phase, this, hp, beginRead_cfg, hc, beginRead_frames, exchangeRows]
        omega
  | read =>
    have hl : rowsLeft s =
        probeRows s + 2 + (s.cfg.retryCeiling - s.frames.att) + (9 - s.frames.rxCnt) := by simp [rowsLeft, hp]
    rcases tick_read hp h with ⟨h9, ha, r, hr, rfl⟩ | ⟨h9, ha, rfl⟩ | ⟨h9, rfl⟩
    · obtain ⟨-, hlen, sc, d, e, hs, -⟩ := chRead_next hr
      have hpr : probeRows (accumulate r.1 r.2) = probeRows s := by rw [hs]; exact probeRows_congr rfl rfl rfl
      have hph : (accumulate r.1 r.2).phase = .read := by simp [hs, hp]
      have hc : (accumulate r.1 r.2).cfg = s.cfg := by simp [hs]
      have hrx : (accumulate r.1 r.2).frames.rxCnt = s.frames.rxCnt + r.1.length := by simp [hs]
      have hat : (accumulate r.1 r.2).frames.att = s.frames.att + charge s.cfg.attemptCounting r.1.length := by
        simp [hs]
      have hl' : rowsLeft (accumulate r.1 r.2) = probeRows s + 2 + (s.cfg.retryCeiling -
          (s.frames.att + charge s.cfg.attemptCounting r.1.length)) + (9 - (s.frames.rxCnt + r.1.length)) := by
        simp only [rowsLeft, hph, hpr, hc, hrx, hat]
      rw [hl, hl']
      have hch : charge s.cfg.attemptCounting r.1.length = 1 ∨ 0 < r.1.length := by
        unfold charge
        cases s.cfg.attemptCounting with
        | allCalls => exact .inl rfl
        | zeroReturnsOnly => by_cases h0 : r.1.length = 0 <;> simp [h0]; omega
      rcases hch with hch | hch <;> omega
    · have := rowsLeft_exchangeFailed .readTimeout s
      omega
    · have he : probeRows (toPhase .decode s) = probeRows s := probeRows_congr rfl rfl rfl
      have : rowsLeft (toPhase .decode s) = probeRows s + 1 := by simp [rowsLeft, he]
      omega
  | decode =>
    have hl : rowsLeft s = probeRows s + 1 := by simp [rowsLeft, hp]
    rcases tick_decode hp h with ⟨-, rfl⟩ | ⟨-, rfl⟩
    · have := rowsLeft_exchangeSucceeded
        (storeDecoded { rcmd := s.frames.rxf[2], rpay := framePayload s.frames.rxf } s)
      have he : probeRows (storeDecoded { rcmd := s.frames.rxf[2], rpay := framePayload s.frames.rxf } s) =
          probeRows s := probeRows_congr rfl rfl rfl
      omega
    · have := rowsLeft_exchangeFailed
        (.checksumMismatch { expected := checksum s.frames.rxf, actual := s.frames.rxf[8] })
        (storeMismatch { expected := checksum s.frames.rxf, actual := s.frames.rxf[8] } s)
      have he : probeRows (storeMismatch { expected := checksum s.frames.rxf, actual := s.frames.rxf[8] } s) =
          probeRows s := probeRows_congr rfl rfl rfl
      omega
  | chClose =>
    obtain ⟨u, hu, rfl⟩ := tick_chClose hp h
    rw [rowsLeft_idle (by simp)]
    simp [rowsLeft, hp]

/-- The bound `rowBound` is enough for any state. -/
theorem rowsLeft_le_rowBound (s : State) : rowsLeft s ≤ rowBound s.cfg := by
  have hp : probeRows s ≤ s.cfg.openVersionTries * exchangeRows s.cfg := by
    unfold probeRows
    split
    · exact Nat.mul_le_mul_right _ (Nat.sub_le _ _)
    · exact Nat.zero_le _
  have hb : rowBound s.cfg = s.cfg.openVersionTries * exchangeRows s.cfg + exchangeRows s.cfg + 2 := by
    simp [rowBound, exchangeRows, Nat.add_mul]
  simp only [exchangeRows] at hp hb
  rw [hb]
  cases h : s.phase <;> simp only [rowsLeft, h, exchangeRows] <;> omega

/-! ## Following a run row by row -/

/-- `t` is reached from `s` by rows of a busy block. -/
inductive Rows : State → State → Prop where
  | refl (s : State) : Rows s s
  | row {s t u : State} (hb : s.phase ≠ .idle) (h : tick s = .next t) (r : Rows t u) : Rows s u

theorem Rows.trans {s t u : State} (h1 : Rows s t) (h2 : Rows t u) : Rows s u := by
  induction h1 with
  | refl => exact h2
  | row hb h _ ih => exact .row hb h (ih h2)

/-- A run of rows that answers next went by rows, and ended idle unless it used up its number. -/
theorem runRows_next {n : Nat} {s t : State} (h : runRows n s = .next t) :
    Rows s t ∧ (rowsLeft s ≤ n → t.phase = .idle) := by
  induction n generalizing s with
  | zero =>
    have ht : s = t := by simpa [runRows] using h
    subst ht
    refine ⟨.refl s, fun hl => ?_⟩
    cases hp : s.phase <;> simp [rowsLeft, hp, exchangeRows] at hl ⊢
  | succ n ih =>
    simp only [runRows] at h
    split at h
    · rename_i hi
      have ht : s = t := by simpa using h
      subst ht
      exact ⟨.refl s, fun _ => hi⟩
    · rename_i hb
      obtain ⟨u, hu, ht⟩ := andThen_eq_next.mp h
      obtain ⟨hr, hd⟩ := ih ht
      exact ⟨.row hb hu hr, fun hl => hd (by have := tick_decreases hb hu; omega)⟩

/-- Where the rows lead, the run leads, whatever comes after. -/
theorem runRows_rows {n : Nat} {s t : State} (hr : Rows s t) (hn : rowsLeft s ≤ n) :
    ∃ m, rowsLeft t ≤ m ∧ runRows n s = runRows m t := by
  induction hr generalizing n with
  | refl s => exact ⟨n, hn, rfl⟩
  | row hb h _ ih =>
    have hd := tick_decreases hb h
    cases n with
    | zero => omega
    | succ n =>
      obtain ⟨m, hm, he⟩ := ih (n := n) (by omega)
      exact ⟨m, hm, by simp [runRows, hb, h, he]⟩

/-- An idle block has no operation in progress. -/
theorem runToIdle_idle {s : State} (h : s.phase = .idle) : runToIdle s = .next s := by
  have : rowBound s.cfg = (s.cfg.openVersionTries + 1) * (s.cfg.retryCeiling + 16) + 1 + 1 := rfl
  rw [runToIdle, this, runRows, if_pos h]

/-- An operation whose rows lead to an idle state completes there. -/
theorem runToIdle_of_rows {s t : State} (hr : Rows s t) (ht : t.phase = .idle) : runToIdle s = .next t := by
  obtain ⟨m, -, he⟩ := runRows_rows hr (rowsLeft_le_rowBound s)
  rw [runToIdle, he]
  cases m with
  | zero => rfl
  | succ m => simp [runRows, ht]

/-- An operation whose rows lead to a busy state in which the next row stops, stops there. -/
theorem runToIdle_refused_of_rows {s t : State} {r : Refusal} (hr : Rows s t) (hb : t.phase ≠ .idle)
    (ht : tick t = .refused r) : runToIdle s = .refused r := by
  obtain ⟨m, hm, he⟩ := runRows_rows hr (rowsLeft_le_rowBound s)
  rw [runToIdle, he]
  cases m with
  | zero => cases hp : t.phase <;> simp [rowsLeft, hp, exchangeRows] at hm hb
  | succ m => simp [runRows, hb, ht]

theorem runToIdle_fault_of_rows {s t : State} {r : Fault} (hr : Rows s t) (hb : t.phase ≠ .idle)
    (ht : tick t = .fault r) : runToIdle s = .fault r := by
  obtain ⟨m, hm, he⟩ := runRows_rows hr (rowsLeft_le_rowBound s)
  rw [runToIdle, he]
  cases m with
  | zero => cases hp : t.phase <;> simp [rowsLeft, hp, exchangeRows] at hm hb
  | succ m => simp [runRows, hb, ht]

/-- An operation that answers next has gone by rows and is idle: every operation ends (41_transceiver.md R141). -/
theorem runToIdle_next {s t : State} (h : runToIdle s = .next t) : Rows s t ∧ t.phase = .idle := by
  obtain ⟨hr, hd⟩ := runRows_next h
  exact ⟨hr, hd (rowsLeft_le_rowBound s)⟩

/-- A host operation on an idle block: it is accepted and runs to its completion (43_handle.md R196). -/
theorem runOperation_idle {accept : State → Host.Outcome State Fault Refusal} {s : State} (h : s.phase = .idle) :
    runOperation accept s = andThen (accept s) runToIdle := by
  simp [runOperation, runToIdle_idle h]

/-- A property every row keeps holds where an operation ends. -/
theorem Rows.induct {P : State → Prop} (step : ∀ {s t : State}, s.phase ≠ .idle → P s → tick s = .next t → P t)
    {s t : State} (hr : Rows s t) (hs : P s) : P t := by
  induction hr with
  | refl => exact hs
  | row hb h _ ih => exact ih (step hb hs h)

end Sys2Proof.Machine
end

