-- ==== Sys2Proof/Laws/Exchange.lean ====
section
/-!
SUPPORT. The rows of a whole exchange (41_transceiver.md R130): what stands at its end when the channel flushes, takes
the request and gives the response in fragments, and when it takes the request short.
-/

namespace Sys2Proof.Machine

/-- What the rows of an exchange leave alone: everything but the frame buffers, the two read counters, the phase and
the channel side. -/
structure SameOperation (s t : State) : Prop where
  handle : t.handle = s.handle
  cur : t.cur = s.cur
  status : t.status = s.status
  sums : t.sums = s.sums
  raw : t.raw = s.raw
  typed : t.typed = s.typed
  done : t.done = s.done
  hostIn : t.hostIn = s.hostIn
  cfg : t.cfg = s.cfg
  draws : t.draws = s.draws
  probeCnt : t.frames.probeCnt = s.frames.probeCnt

theorem SameOperation.refl (s : State) : SameOperation s s := by constructor <;> rfl

theorem SameOperation.trans {s t u : State} (h : SameOperation s t) (k : SameOperation t u) : SameOperation s u where
  handle := k.handle.trans h.handle
  cur := k.cur.trans h.cur
  status := k.status.trans h.status
  sums := k.sums.trans h.sums
  raw := k.raw.trans h.raw
  typed := k.typed.trans h.typed
  done := k.done.trans h.done
  hostIn := k.hostIn.trans h.hostIn
  cfg := k.cfg.trans h.cfg
  draws := k.draws.trans h.draws
  probeCnt := k.probeCnt.trans h.probeCnt

/-- What an exchange leaves at its end, before its outcome is acted on: the operation as it was, the calls `new` made,
the channel as `c` says, and `rest` of the answers to come. -/
structure After (new : List ChCall) (c : Channel) (rest : List ChAnswer) (s u : State) : Prop where
  same : SameOperation s u
  calls : u.calls = s.calls ++ new
  chan : u.chan = c
  script : u.script = rest

/-! ## The read calls -/

@[simp] theorem given_nil : given [] = 0 := rfl
@[simp] theorem given_cons (q : ReadReply) (qs : List ReadReply) : given (q :: qs) = q.count + given qs := by
  simp [given]
@[simp] theorem charged_nil (c : Config) : charged c [] = 0 := rfl
@[simp] theorem charged_cons (c : Config) (q : ReadReply) (qs : List ReadReply) :
    charged c (q :: qs) = charge c.attemptCounting q.count + charged c qs := by
  simp [charged]

/-- Each read call finds the loop still running: fewer than nine bytes held, budget left, and room for what it gives. -/
def Within (c : Config) : Nat → Nat → List ReadReply → Prop
  | _, _, [] => True
  | n, a, q :: qs => n < 9 ∧ a < c.retryCeiling ∧ n + q.count ≤ 9 ∧
      Within c (n + q.count) (a + charge c.attemptCounting q.count) qs

theorem given_dropLast_le (qs : List ReadReply) : given qs.dropLast ≤ given qs := by
  induction qs with
  | nil => simp
  | cons q qs ih =>
    cases qs with
    | nil => simp
    | cons q' qs' => simp only [List.dropLast_cons_cons, given_cons] at ih ⊢; omega

theorem within_of {c : Config} {qs : List ReadReply} {n a : Nat} (hw : n + given qs ≤ 9)
    (hl : n + given qs.dropLast < 9) (hb : a + charged c qs.dropLast < c.retryCeiling) : Within c n a qs := by
  induction qs generalizing n a with
  | nil => trivial
  | cons q qs ih =>
    cases qs with
    | nil => simp at hw hl hb; exact ⟨by omega, by omega, by omega, trivial⟩
    | cons q' qs' =>
      simp only [List.dropLast_cons_cons, given_cons, charged_cons] at hw hl hb
      exact ⟨by omega, by omega, by omega, ih (by simp only [given_cons]; omega) (by omega) (by omega)⟩

theorem Delivers.within {c : Config} {r : Reply} {f : Frame} (h : Delivers c r f) : Within c 0 0 r.reads :=
  within_of (by have := h.nine; omega) (by have := h.last; omega) (by have := h.inBudget; omega)

theorem TimesOut.within {c : Config} {r : Reply} (h : TimesOut c r) : Within c 0 0 r.reads := by
  have hsub := given_dropLast_le r.reads
  have := h.short
  exact within_of (by omega) (by omega) (by have := h.last; omega)

/-- The read loop over the answers of the channel (41_transceiver.md R133 to R135): `bs` is what stands in the input
buffer and what is still to arrive. -/
theorem rows_reads {qs : List ReadReply} {bs : List Byte} {s : State} {rest : List ChAnswer} (hp : s.phase = .read)
    (he : s.chan.established = true)
    (hs : s.script = qs.map (fun q => ChAnswer.gave q.count q.event) ++ rest)
    (hb : s.chan.inBuf ++ qs.flatMap (fun q => q.event.arrive) = bs) (hc : canGive s.chan.inBuf.length qs = true)
    (hw : Within s.cfg s.frames.rxCnt s.frames.att qs) :
    ∃ u, Rows s u ∧ After (readCalls s.frames.rxCnt bs qs)
        { s.chan with
          inBuf := bs.drop (given qs)
          outBuf := s.chan.outBuf.drop (qs.map fun p => p.event.carried).sum } rest s u ∧
      u.phase = .read ∧ u.frames.rxf = storeBytes s.frames.rxf s.frames.rxCnt (bs.take (given qs)) ∧
      u.frames.rxCnt = s.frames.rxCnt + given qs ∧ u.frames.att = s.frames.att + charged s.cfg qs := by
  induction qs generalizing s bs with
  | nil =>
    simp only [List.flatMap_nil, List.append_nil] at hb
    exact ⟨s, .refl s, ⟨.refl s, by simp [readCalls], by simp [← hb], by simpa using hs⟩, hp, rfl, rfl, rfl⟩
  | cons q qs ih =>
    obtain ⟨h9, ha, hr, hw'⟩ := hw
    simp only [canGive, Bool.and_eq_true, decide_eq_true_eq] at hc
    have hbs : (s.chan.inBuf ++ q.event.arrive) ++ qs.flatMap (fun q => q.event.arrive) = bs := by simpa using hb
    have htake : (s.chan.inBuf ++ q.event.arrive).take q.count = bs.take q.count := by
      rw [← hbs]
      exact (List.take_append_of_le_length (by simpa using hc.1)).symm
    have hdrop : (s.chan.inBuf ++ q.event.arrive).drop q.count ++ qs.flatMap (fun q => q.event.arrive) =
        bs.drop q.count := by
      rw [← hbs]
      exact (List.drop_append_of_le_length (by simpa using hc.1)).symm
    have hlen : (bs.take q.count).length = q.count := by
      rw [← htake, List.length_take, List.length_append]; omega
    have ht : tick s = .next (accumulate (bs.take q.count) (({ s with
        script := qs.map (fun q => ChAnswer.gave q.count q.event) ++ rest } : State).called
        (.read (9 - s.frames.rxCnt) (bs.take q.count))
        { s.chan.move q.event with inBuf := (s.chan.inBuf ++ q.event.arrive).drop q.count })) := by
      simp only [tick, hp, readRow, if_pos h9, if_pos ha, readCall,
        chRead_scripted he (by simpa using hs) (show q.count ≤ 9 - s.frames.rxCnt by omega) hc.1, andThen_next, htake]
    generalize hv : accumulate (bs.take q.count) (({ s with
        script := qs.map (fun q => ChAnswer.gave q.count q.event) ++ rest } : State).called
        (.read (9 - s.frames.rxCnt) (bs.take q.count))
        { s.chan.move q.event with inBuf := (s.chan.inBuf ++ q.event.arrive).drop q.count }) = v at ht
    have hvr : v.frames.rxCnt = s.frames.rxCnt + q.count := by simp [← hv, hlen]
    have hva : v.frames.att = s.frames.att + charge s.cfg.attemptCounting q.count := by simp [← hv, hlen]
    have hvc : v.cfg = s.cfg := by simp [← hv]
    obtain ⟨u, hu, hend, h1, h2, h3, h4⟩ := ih (s := v) (bs := bs.drop q.count)
      (by simp [← hv, hp]) (by simp [← hv, Channel.move, he]) (by simp [← hv])
      (by simpa [← hv] using hdrop)
      (by simpa [← hv] using hc.2)
      (by rw [hvr, hva, hvc]; exact hw')
    refine ⟨u, .row (by simp [hp]) ht hu, ⟨?_, ?_, ?_, hend.script⟩, h1, ?_, ?_, ?_⟩
    · exact SameOperation.trans (by constructor <;> simp [← hv]) hend.same
    · rw [hend.calls, hvr]; simp [← hv, readCalls]
    · rw [hend.chan]; simp [← hv, Channel.move, List.drop_drop]
    · rw [h2, hvr, given_cons, List.take_add, storeBytes_append, hlen]; simp [← hv]
    · rw [h3, hvr, given_cons]; omega
    · rw [h4, hva, hvc, charged_cons]; omega

/-! ## From FLUSH to the end of an exchange -/

/-- The flush and write rows of an exchange (41_transceiver.md R131, R132): a short count ends it with WriteError, a whole
write is followed by the read phase or by what the operation does without one. -/
theorem rows_write {s : State} {q : Frame} {k : Nat} {e0 e1 : LineEvent} {rest : List ChAnswer}
    (hp : s.phase = .flush) (he : s.chan.established = true)
    (hq : codecEncode s.cur.cmd s.cur.pl s.cur.len = some q)
    (hs : s.script = .flushed e0 :: .wrote k e1 :: rest) (hk : k ≤ 9) :
    ∃ u, Rows s (if k < 9 then exchangeFailed .writeError u else exchangeWritten u) ∧
      After [.flush, .write q k] (s.chan.afterWrite e0 e1 (q.toList.take k)) rest s u := by
  have h1 : tick s = .next (toPhase .write (({ s with script := .wrote k e1 :: rest } : State).called .flush
      (({ s.chan with inBuf := [] } : Channel).move e0))) := by
    simp only [tick, hp, flushRow, chFlush_scripted he hs, andThen_next]
  generalize hv : toPhase .write (({ s with script := .wrote k e1 :: rest } : State).called .flush
      (({ s.chan with inBuf := [] } : Channel).move e0)) = v at h1
  have hvp : v.phase = .write := by simp [← hv]
  have hve : (loadFrame q v).chan.established = true := by simp [← hv, Channel.move, he]
  have hvs : (loadFrame q v).script = .wrote k e1 :: rest := by simp [← hv]
  have hq' : codecEncode v.cur.cmd v.cur.pl v.cur.len = some q := by simpa [← hv] using hq
  have h2 : tick v = .next (if k < 9 then exchangeFailed .writeError (({ loadFrame q v with script := rest } :
        State).called (.write q k) (({ v.chan with outBuf := v.chan.outBuf ++ q.toList.take k } : Channel).move e1))
      else exchangeWritten (({ loadFrame q v with script := rest } : State).called (.write q k)
        (({ v.chan with outBuf := v.chan.outBuf ++ q.toList.take k } : Channel).move e1))) := by
    simp only [tick, hvp, writeRow, hq', chWrite_scripted hve hvs hk, andThen_next]
    rfl
  refine ⟨_, .row (by simp [hp]) h1 (.row (by simp [hvp]) h2 (.refl _)), ⟨?_, ?_, ?_, by simp⟩⟩
  · constructor <;> simp [← hv]
  · simp [← hv]
  · simp [← hv, Channel.move, Channel.afterWrite]

/-- An exchange whose request is accepted whole, by an operation that reads a response, up to the end of its read
phase. -/
theorem rows_to_readEnd {s : State} {q : Frame} {r : Reply} {rest : List ChAnswer}
    (hp : s.phase = .flush) (he : s.chan.established = true)
    (hq : codecEncode s.cur.cmd s.cur.pl s.cur.len = some q) (hs : s.script = r.answers ++ rest)
    (hz : ¬ (s.cur.op = .zeroCal ∧ s.cfg.zeroCalAwaitsResponse = false)) (hc : r.canGive = true)
    (hw : Within s.cfg 0 0 r.reads) :
    ∃ u, Rows s u ∧ After (exchangeCalls q r) (r.channelAfter q s.chan) rest s u ∧ u.phase = .read ∧
      u.frames.rxCnt = given r.reads ∧ u.frames.att = charged s.cfg r.reads ∧
      ∃ b, u.frames.rxf = storeBytes b 0 (r.stream.take (given r.reads)) := by
  obtain ⟨v, hv, hend⟩ := rows_write (k := 9) hp he hq (by simpa [Reply.answers] using hs) (Nat.le_refl 9)
  have hwr : exchangeWritten v = beginRead v := by
    unfold exchangeWritten
    rw [if_neg (by rw [hend.same.cur, hend.same.cfg]; exact hz)]
  rw [if_neg (Nat.lt_irrefl 9), hwr] at hv
  have hcb : v.chan = s.chan.afterWrite r.atFlush r.atWrite q.toList := by simp [hend.chan, List.take_of_length_le]
  obtain ⟨u, hu, hend', g1, g2, g3, g4⟩ := rows_reads (s := beginRead v) (qs := r.reads) (bs := r.stream)
    (rest := rest) (by simp) (by simp [hcb, Channel.afterWrite, he]) (by simp [hend.script])
    (by rw [beginRead_chan, hcb]; rfl) (by simpa [hcb, Channel.afterWrite, Reply.canGive] using hc)
    (by simpa [hend.same.cfg] using hw)
  refine ⟨u, hv.trans hu, ⟨?_, ?_, ?_, hend'.script⟩, g1, by simpa using g3, by simpa [hend.same.cfg] using g4, _, g2⟩
  · exact hend.same.trans (SameOperation.trans (by constructor <;> simp) hend'.same)
  · rw [hend'.calls]; simp [hend.calls, exchangeCalls]
  · rw [hend'.chan, beginRead_chan, hcb]; simp [Channel.afterWrite, Reply.channelAfter]

/-- An exchange whose nine bytes are delivered ends with success or with ChecksumMismatch (41_transceiver.md R137). -/
theorem rows_delivered {s : State} {q f : Frame} {r : Reply} {rest : List ChAnswer}
    (hp : s.phase = .flush) (he : s.chan.established = true)
    (hq : codecEncode s.cur.cmd s.cur.pl s.cur.len = some q) (hs : s.script = r.answers ++ rest)
    (hz : ¬ (s.cur.op = .zeroCal ∧ s.cfg.zeroCalAwaitsResponse = false)) (hd : Delivers s.cfg r f) :
    ∃ u, After (exchangeCalls q r) (r.channelAfter q s.chan) rest s u ∧
      (Valid f → Rows s (exchangeSucceeded (storeDecoded { rcmd := f[2], rpay := framePayload f } u))) ∧
      (¬ Valid f → Rows s (exchangeFailed (.checksumMismatch { expected := checksum f, actual := f[8] })
        (storeMismatch { expected := checksum f, actual := f[8] } u))) := by
  obtain ⟨v, hv, hend, h1, h2, -, b, h3⟩ := rows_to_readEnd hp he hq hs hz hd.can hd.within
  have h9 : ¬ v.frames.rxCnt < 9 := by rw [h2, hd.nine]; omega
  have ht : tick v = .next (toPhase .decode v) := by simp [tick, h1, readRow, h9]
  have hf : (toPhase .decode v).frames.rxf = f := by
    rw [toPhase_frames, h3, hd.nine, hd.whole, storeBytes_full]
  have hr : Rows s (toPhase .decode v) := hv.trans (.row (by simp [h1]) ht (.refl _))
  refine ⟨toPhase .decode v, ⟨hend.same.trans (by constructor <;> simp), by simpa using hend.calls,
    by simpa using hend.chan, by simpa using hend.script⟩, fun hval => ?_, fun hval => ?_⟩
  · refine hr.trans (.row (by simp) ?_ (.refl _))
    rw [tick, toPhase_phase]
    simp only [decodeRow, hf, codecDecode_valid hval]
  · refine hr.trans (.row (by simp) ?_ (.refl _))
    rw [tick, toPhase_phase]
    simp only [decodeRow, hf, codecDecode_invalid hval]

/-- An exchange whose channel falls silent until the ceiling ends with ReadTimeout (41_transceiver.md R136). -/
theorem rows_silent {s : State} {q : Frame} {r : Reply} {rest : List ChAnswer}
    (hp : s.phase = .flush) (he : s.chan.established = true)
    (hq : codecEncode s.cur.cmd s.cur.pl s.cur.len = some q) (hs : s.script = r.answers ++ rest)
    (hz : ¬ (s.cur.op = .zeroCal ∧ s.cfg.zeroCalAwaitsResponse = false)) (hd : TimesOut s.cfg r) :
    ∃ u, After (exchangeCalls q r) (r.channelAfter q s.chan) rest s u ∧
      Rows s (exchangeFailed .readTimeout u) := by
  obtain ⟨u, hu, hend, h1, h2, h3, -⟩ := rows_to_readEnd hp he hq hs hz hd.can hd.within
  have h9 : u.frames.rxCnt < 9 := by rw [h2]; exact hd.short
  have ha : ¬ u.frames.att < u.cfg.retryCeiling := by
    rw [h3, hend.same.cfg]; have := hd.usedUp; omega
  have ht : tick u = .next (exchangeFailed .readTimeout u) := by
    simp only [tick, h1, readRow, if_pos h9, if_neg ha]
  exact ⟨u, hend, hu.trans (.row (by simp [h1]) ht (.refl _))⟩

end Sys2Proof.Machine
end

