-- ==== Sys2Proof/Laws/Operation.lean ====
section
/-!
SUPPORT. A host operation as the acceptance it begins with and the rows that follow, and what every row of the block
leaves alone, told once for all rows.
-/

namespace Sys2Proof.Machine

/-! ## Acceptance -/

/-- The operand bit a command latches: SET_ABC's (30_encoding.md R94). -/
def argOf : Instr → Option Bool
  | .setAbcOn => some true
  | .setAbcOff => some false
  | .readCo2 => none
  | .readTemp => none
  | .getAbc => none
  | .zeroCal => none
  | .getVersion => none
  | .openHandle _ => none
  | .closeHandle => none

/-- The exchange of a command (30_encoding.md R88); OPEN and CLOSE are given the probe's. -/
def reqOf (i : Instr) : ExchangeReq := (exchangeOf i).getD exchangeProbe

/-- How the block accepts an operation. -/
def acceptOf : Instr → State → Host.Outcome State Fault Refusal
  | .openHandle v => beginOpen v
  | .closeHandle => beginClose
  | .readCo2 => beginCommand .readCo2 none exchangeReadCo2
  | .readTemp => beginCommand .readTemp none exchangeReadTemp
  | .setAbcOn => beginCommand .setAbc (some true) exchangeSetAbcOn
  | .setAbcOff => beginCommand .setAbc (some false) exchangeSetAbcOff
  | .getAbc => beginCommand .getAbc none exchangeGetAbc
  | .zeroCal => beginCommand .zeroCal none exchangeZeroCal
  | .getVersion => beginCommand .getVersion none exchangeGetVersion

/-- Every instruction is an operation run from its acceptance. -/
theorem exec_eq (i : Instr) (s : State) : exec i s = runOperation (acceptOf i) s := by cases i <;> rfl

theorem acceptOf_command {i : Instr} (h : i.isCommand = true) :
    acceptOf i = beginCommand (opOf i) (argOf i) (reqOf i) := by
  cases i <;> first | rfl | (simp [Instr.isCommand, exchangeOf] at h)

/-- The operation a command latches is neither OPEN nor CLOSE. -/
theorem opOf_command {i : Instr} (h : i.isCommand = true) : opOf i ≠ .openOp ∧ opOf i ≠ .closeOp := by
  cases i <;>
    first
    | (exfalso; simp [Instr.isCommand, exchangeOf] at h; done)
    | (constructor <;> intro h' <;> cases h')

/-- What an acceptance that answers next leaves alone, and the operation it latches. -/
theorem acceptOf_keeps {i : Instr} {s t : State} (h : acceptOf i s = .next t) :
    t.cfg = s.cfg ∧ t.hostIn = s.hostIn ∧ t.cur.op = opOf i ∧ t.calls = s.calls ∧ t.chan = s.chan ∧
      t.script = s.script := by
  cases i <;> simp only [acceptOf, beginCommand, beginOpen, beginClose] at h <;> split at h <;> cases h <;>
    simp [opOf]

/-- A command on an idle block (42_commands.md R160): NotOpen, or the run of its exchange. -/
theorem exec_command {i : Instr} {s : State} (h : i.isCommand = true) (hp : s.phase = .idle) :
    exec i s = if s.handle.hs = .opened then runToIdle (startExchange (latch (opOf i) (argOf i) (some (reqOf i)) s))
      else .next (raise .notOpen (latch (opOf i) (argOf i) (some (reqOf i)) s)) := by
  rw [exec_eq, runOperation_idle hp, acceptOf_command h, beginCommand]
  split
  · rfl
  · simp only [andThen_next]
    rw [runToIdle_idle]
    simp

/-- A command that answers next, by the handle state. -/
theorem command_next {i : Instr} (hi : i.isCommand = true) {s t : State} (hp : s.phase = .idle)
    (h : exec i s = .next t) :
    (s.handle.hs ≠ .opened ∧ t = raise .notOpen (latch (opOf i) (argOf i) (some (reqOf i)) s)) ∨
    (s.handle.hs = .opened ∧ Rows (startExchange (latch (opOf i) (argOf i) (some (reqOf i)) s)) t ∧
      t.phase = .idle) := by
  rw [exec_command hi hp] at h
  split at h
  · exact .inr ⟨‹_›, runToIdle_next h⟩
  · cases h
    exact .inl ⟨‹_›, rfl⟩

/-- OPEN that answers next was on a new handle, and its first row was CH_OPEN (43_handle.md R191). -/
theorem open_next {v : Bool} {s t : State} (hp : s.phase = .idle) (h : exec (.openHandle v) s = .next t) :
    s.handle.hs = .closedNew ∧ ∃ r, chOpen (beginProbe (latch .openOp (some v) (some exchangeProbe) s)) = .next r ∧
      t.phase = .idle ∧
      ((r.1 = true ∧ Rows (probeNext (openRegs r.2)) t) ∨ (r.1 = false ∧ t = raise .channelOpenError r.2)) := by
  rw [exec_eq, runOperation_idle hp] at h
  obtain ⟨u, hu, h⟩ := andThen_eq_next.mp h
  simp only [acceptOf, beginOpen] at hu
  split at hu
  · rename_i hn
    cases hu
    refine ⟨hn, ?_⟩
    obtain ⟨hr, ht⟩ := runToIdle_next h
    cases hr with
    | refl => simp at ht
    | row hb h1 hr =>
      obtain ⟨r, hr1, rfl⟩ := tick_chOpen (by simp) h1
      refine ⟨r, hr1, ht, ?_⟩
      cases hc : r.1 with
      | true => exact .inl ⟨rfl, by simpa [hc] using hr⟩
      | false =>
        simp only [hc] at hr
        cases hr with
        | refl => exact .inr ⟨rfl, rfl⟩
        | row hb => simp at hb
  · cases hu

/-- The state in which OPEN begins its probe, when ChOpen is answered ok by the script (43_handle.md R191). -/
def openStart (v : Bool) (rest : List ChAnswer) (s : State) : State :=
  openRegs (({ beginProbe (latch .openOp (some v) (some exchangeProbe) s) with script := rest } : State).called
    (.open true) { s.chan with established := true })

/-- OPEN on a new handle whose ChOpen is answered ok: its rows lead to the probe. -/
theorem open_rows {v : Bool} {s : State} {rest : List ChAnswer} (hp : s.phase = .idle) (hn : s.handle.hs = .closedNew)
    (hs : s.script = .opened true :: rest) :
    ∃ u, exec (.openHandle v) s = runToIdle u ∧ Rows u (probeNext (openStart v rest s)) := by
  refine ⟨beginProbe (latch .openOp (some v) (some exchangeProbe) s), ?_, .row (by simp) ?_ (.refl _)⟩
  · rw [exec_eq, runOperation_idle hp]
    simp only [acceptOf, beginOpen, hn, if_true, andThen_next]
  · have hs' : (beginProbe (latch .openOp (some v) (some exchangeProbe) s)).script = .opened true :: rest := by
      simp [hs]
    simp only [tick, beginProbe_phase, chOpenRow, chOpen_scripted hs', andThen_next]
    rfl

/-- CLOSE that answers next, by the handle state (43_handle.md R193). -/
theorem close_next {s t : State} (hp : s.phase = .idle) (h : exec .closeHandle s = .next t) :
    (s.handle.hs = .closedNew ∧ t = raise .notOpen (latch .closeOp none none s)) ∨
    (s.handle.hs = .closedDone ∧ t = raise .alreadyClosed (latch .closeOp none none s)) ∨
    (s.handle.hs = .opened ∧
      ∃ u, chClose (toPhase .chClose (latch .closeOp none none s)) = .next u ∧ t = complete (closeRegs u)) := by
  rw [exec_eq, runOperation_idle hp] at h
  obtain ⟨u, hu, h⟩ := andThen_eq_next.mp h
  simp only [acceptOf, beginClose] at hu
  split at hu <;> cases hu
  · rw [runToIdle_idle (by simp)] at h
    cases h
    exact .inl ⟨‹_›, rfl⟩
  · rw [runToIdle_idle (by simp)] at h
    cases h
    exact .inr (.inl ⟨‹_›, rfl⟩)
  · refine .inr (.inr ⟨‹_›, ?_⟩)
    obtain ⟨hr, ht⟩ := runToIdle_next h
    cases hr with
    | refl => simp at ht
    | row hb h1 hr =>
      obtain ⟨u, hu, rfl⟩ := tick_chClose (by simp) h1
      cases hr with
      | refl => exact ⟨u, hu, rfl⟩
      | row hb => simp at hb

/-! ## What every row leaves alone -/

/-- The parameters, the host port and every operation latch (10_state.md R31); and the record of calls only grows. -/
structure Kept (s t : State) : Prop where
  cfg : t.cfg = s.cfg
  hostIn : t.hostIn = s.hostIn
  cur : t.cur = s.cur
  calls : ∃ new, t.calls = s.calls ++ new

theorem Kept.refl (s : State) : Kept s s := ⟨rfl, rfl, rfl, [], by simp⟩

theorem Kept.trans {s t u : State} (h : Kept s t) (k : Kept t u) : Kept s u := by
  obtain ⟨n, hn⟩ := h.calls
  obtain ⟨m, hm⟩ := k.calls
  exact ⟨k.cfg.trans h.cfg, k.hostIn.trans h.hostIn, k.cur.trans h.cur, n ++ m, by simp [hm, hn]⟩

theorem kept_probeNext (s : State) : Kept s (probeNext s) := by
  unfold probeNext
  split <;> exact ⟨by simp, by simp, by simp, [], by simp⟩

theorem kept_raise (e : OpError) (s : State) : Kept s (raise e s) :=
  ⟨by simp, by simp, by simp, [], by simp⟩

theorem kept_complete (s : State) : Kept s (complete s) := ⟨by simp, by simp, by simp, [], by simp⟩

theorem kept_exchangeFailed (e : OpError) (s : State) : Kept s (exchangeFailed e s) := by
  rw [exchangeFailed_eq]
  split
  · exact kept_probeNext s
  · exact kept_raise e s

theorem kept_interpret (s : State) : Kept s (interpret s) := by
  unfold interpret
  cases s.cur.op <;> exact ⟨by simp, by simp, by simp, [], by simp⟩

theorem kept_exchangeSucceeded (s : State) : Kept s (exchangeSucceeded s) := by
  rw [exchangeSucceeded_eq]
  split
  · exact (kept_interpret s).trans (kept_probeNext _)
  · exact (kept_interpret s).trans (kept_complete _)

/-! ## The rows of an exchange, seen from the handle and the results -/

/-- What a row of an exchange leaves alone up to the outcome of the exchange. -/
structure Near (s x : State) : Prop where
  handle : x.handle = s.handle
  cur : x.cur = s.cur
  cfg : x.cfg = s.cfg
  typed : x.typed = s.typed
  established : x.chan.established = s.chan.established
  probeCnt : x.frames.probeCnt = s.frames.probeCnt
  status : x.status = s.status

/-- The errors an exchange can end with (41_transceiver.md R141). -/
def OpError.ofExchange (e : OpError) : Prop := e = .writeError ∨ e = .readTimeout ∨ ∃ m, e = .checksumMismatch m

/-- A row of an exchange goes on to another row of it, or ends it: with one of its three errors, with success, or
after the write of a ZERO_CAL that awaits no response. -/
theorem tick_exchange {s t : State} (hp : s.phase.inExchange = true) (h : tick s = .next t) :
    ∃ x, Near s x ∧
      ((t = x ∧ t.phase.inExchange = true) ∨ (∃ e, e.ofExchange ∧ t = exchangeFailed e x) ∨
        t = exchangeSucceeded x ∨ (t = complete x ∧ s.cur.op = .zeroCal)) := by
  cases hq : s.phase with
  | idle => simp [hq, Phase.inExchange] at hp
  | chOpen => simp [hq, Phase.inExchange] at hp
  | chClose => simp [hq, Phase.inExchange] at hp
  | flush =>
    obtain ⟨u, hu, rfl⟩ := tick_flush hq h
    obtain ⟨-, sc, d, e, rfl⟩ := chFlush_next hu
    refine ⟨_, ?_, .inl ⟨rfl, rfl⟩⟩
    exact ⟨rfl, rfl, rfl, rfl, rfl, rfl, rfl⟩
  | write =>
    obtain ⟨f, r, -, hr, rfl⟩ := tick_write hq h
    obtain ⟨-, -, sc, d, e, hs⟩ := chWrite_next hr
    have k : Near s r.2 := by rw [hs]; exact ⟨rfl, rfl, rfl, rfl, rfl, rfl, rfl⟩
    split
    · exact ⟨_, k, .inr (.inl ⟨_, .inl rfl, rfl⟩)⟩
    · unfold exchangeWritten
      split
      · rename_i hz
        rw [k.cur] at hz
        exact ⟨clearResult r.2, ⟨k.1, k.2, k.3, k.4, k.5, k.6, k.7⟩, .inr (.inr (.inr ⟨rfl, hz.1⟩))⟩
      · exact ⟨beginRead r.2, ⟨k.1, k.2, k.3, k.4, k.5, k.6, k.7⟩, .inl ⟨rfl, rfl⟩⟩
  | read =>
    rcases tick_read hq h with ⟨h9, ha, r, hr, rfl⟩ | ⟨h9, ha, rfl⟩ | ⟨h9, rfl⟩
    · obtain ⟨-, hlen, sc, d, e, hs, -⟩ := chRead_next hr
      refine ⟨_, ?_, .inl ⟨rfl, ?_⟩⟩
      · rw [hs]
        exact ⟨rfl, rfl, rfl, rfl, rfl, rfl, rfl⟩
      · rw [hs]
        simpa using hp
    · exact ⟨s, ⟨rfl, rfl, rfl, rfl, rfl, rfl, rfl⟩, .inr (.inl ⟨_, .inr (.inl rfl), rfl⟩)⟩
    · refine ⟨_, ?_, .inl ⟨rfl, rfl⟩⟩
      exact ⟨rfl, rfl, rfl, rfl, rfl, rfl, rfl⟩
  | decode =>
    rcases tick_decode hq h with ⟨-, rfl⟩ | ⟨-, rfl⟩
    · exact ⟨storeDecoded _ s, ⟨rfl, rfl, rfl, rfl, rfl, rfl, rfl⟩, .inr (.inr (.inl rfl))⟩
    · exact ⟨storeMismatch _ s, ⟨rfl, rfl, rfl, rfl, rfl, rfl, rfl⟩,
        .inr (.inl ⟨_, .inr (.inr ⟨_, rfl⟩), rfl⟩)⟩

/-! ## Progress -/

/-- Where every busy state of `Q` has a next row that stays in `Q`, the operation runs to its end. -/
theorem runs_next {Q : State → Prop} (hQ : ∀ {s : State}, s.phase ≠ .idle → Q s → ∃ t, tick s = .next t ∧ Q t)
    {s : State} (hs : Q s) : ∃ t, Rows s t ∧ t.phase = .idle ∧ Q t := by
  generalize hn : rowsLeft s = n
  induction n using Nat.strongRecOn generalizing s with
  | _ n ih =>
    by_cases hp : s.phase = .idle
    · exact ⟨s, .refl s, hp, hs⟩
    · obtain ⟨t, ht, hQt⟩ := hQ hp hs
      obtain ⟨u, hu, h⟩ := ih (rowsLeft t) (by have := tick_decreases hp ht; omega) hQt rfl
      exact ⟨u, .row hp ht hu, h⟩

end Sys2Proof.Machine
end

