-- ==== Sys2Proof/Laws/PerInstr.lean ====
section
/-!
SUPPORT. Statements made per instruction: the host request that selects it (30_encoding.md R94, R95).
-/

namespace Sys2Proof.Laws.HostWord

/-- The instruction's host request is well-formed, decodes to it, and fits the five bits of a host word (log 3). -/
def Statement (i : Instr) : Prop :=
  (encodeHost i).wf = true ∧ decodeHost (encodeHost i) = .ok i ∧ decodeHostWord (hostWord (encodeHost i)) = .ok i

theorem readCo2 : Statement .readCo2 := ⟨rfl, rfl, rfl⟩
theorem readTemp : Statement .readTemp := ⟨rfl, rfl, rfl⟩
theorem setAbcOn : Statement .setAbcOn := ⟨rfl, rfl, rfl⟩
theorem setAbcOff : Statement .setAbcOff := ⟨rfl, rfl, rfl⟩
theorem getAbc : Statement .getAbc := ⟨rfl, rfl, rfl⟩
theorem zeroCal : Statement .zeroCal := ⟨rfl, rfl, rfl⟩
theorem getVersion : Statement .getVersion := ⟨rfl, rfl, rfl⟩
theorem openHandle (verbose : Bool) : Statement (.openHandle verbose) := by
  cases verbose <;> exact ⟨rfl, rfl, rfl⟩
theorem closeHandle : Statement .closeHandle := ⟨rfl, rfl, rfl⟩

end Sys2Proof.Laws.HostWord
end

