-- ==== Sys2Proof/Tests/Slice0.lean ====
section
/-!
SUPPORT. Tests. Expected results are the vectors of 95_test_vectors.md (named V-... or S...) or hand calculation from
the rule named; the witnesses show, for each statement with hypotheses, a state and operands that meet them.
-/

namespace Sys2Proof.Tests

open Sys2Proof Sys2Proof.Machine

/-! ## Helpers -/

/-- The state after reset with the handle open, its channel established, and the channel's next answers. -/
def opened (script : List ChAnswer) : State :=
  { State.reset with
    handle := { State.reset.handle with hs := .opened }
    chan := { established := true, inBuf := [], outBuf := [] }
    script := script }

/-- The state after reset with the channel's next answers. -/
def fresh (script : List ChAnswer) : State := { State.reset with script := script }

/-- A handle closed again. -/
def closedAgain : State := { State.reset with handle := { State.reset.handle with hs := .closedDone } }

/-- A whole response in one read. -/
def whole (f : Frame) : List LineEvent := [⟨f.toList, 0⟩]

/-- A channel that is quiet at the flush and the write, and gives at each read call what arrives during it. -/
def reply (frags : List LineEvent) : Reply :=
  { atFlush := ⟨[], 0⟩, atWrite := ⟨[], 0⟩, reads := frags.map fun e => ⟨e.arrive.length, e⟩ }

/-- An open handle whose channel gives this response in one read. -/
def answering (f : Frame) : State := opened (reply (whole f)).answers

/-- `n` read calls that bring nothing. -/
def silence (n : Nat) : List LineEvent := List.replicate n ⟨[], 0⟩

/-- The outcome is a next state with this property. -/
def endsIn (o : Host.Outcome State Fault Refusal) (p : State → Bool) : Bool :=
  match o with
  | .next t => p t
  | .fault _ => false
  | .refused _ => false

/-- The outcome is a refusal with this name. -/
def refusedBy (o : Host.Outcome State Fault Refusal) (r : Refusal) : Bool :=
  match o with
  | .next _ => false
  | .fault _ => false
  | .refused r' => decide (r = r')

/-- V-K1, the response to READ_CO2. -/
def vk1 : Frame := #v[0xFF, 0x01, 0x86, 0x02, 0x58, 0x2D, 0x00, 0x00, 0xF2]
/-- V-D3: V-K1 with a corrupted checksum. -/
def vd3 : Frame := #v[0xFF, 0x01, 0x86, 0x02, 0x58, 0x2D, 0x00, 0x00, 0xF3]
/-- V-K17, the response to GET_VERSION. -/
def vk17 : Frame := #v[0xFF, 0x01, 0xA0, 0x30, 0x35, 0x31, 0x36, 0x00, 0x93]

/-- V-K1 in pieces: three bytes already at the flush, three at the write, the rest with two surplus bytes at the second
read, while the line carries the request away. -/
def scattered : Reply :=
  { atFlush := ⟨vk1.toList.take 3, 1⟩
    atWrite := ⟨(vk1.toList.drop 3).take 3, 4⟩
    reads := [⟨2, ⟨[], 3⟩⟩, ⟨7, ⟨vk1.toList.drop 6 ++ [0xAA, 0xBB], 2⟩⟩] }

/-! ## Well-formedness -/

theorem test_illFormed_host : HostReq.wf { op := 0x8, arg := false } = false := by decide
theorem test_illFormed_payload :
    ExchangeReq.wf { cmd := 0x79, payload := [1, 2, 3, 4, 5, 6], width := 0 } = false := by decide
theorem test_illFormed_width : ExchangeReq.wf { cmd := 0x79, payload := [], width := 7 } = false := by decide
theorem test_illFormed_config : Config.wf { Config.default with retryCeiling := 0 } = false := by decide
theorem test_wellFormed_default : Config.default.wf = true := by decide

/-! ## Decoding: words written out from 30_encoding.md R88 and R94 -/

theorem test_decode_readCo2 :
    decode [0xFF, 0x01, 0x86, 0x00, 0x00, 0x00, 0x00, 0x00, 0x79] = .ok .readCo2 := by decide
theorem test_decode_readTemp :
    decode [0xFF, 0x01, 0x85, 0x00, 0x00, 0x00, 0x00, 0x00, 0x7A] = .ok .readTemp := by decide
theorem test_decode_setAbcOn :
    decode [0xFF, 0x01, 0x79, 0xA0, 0x00, 0x00, 0x00, 0x00, 0xE6] = .ok .setAbcOn := by decide
theorem test_decode_setAbcOff :
    decode [0xFF, 0x01, 0x79, 0x00, 0x00, 0x00, 0x00, 0x00, 0x86] = .ok .setAbcOff := by decide
theorem test_decode_getAbc :
    decode [0xFF, 0x01, 0x7D, 0x00, 0x00, 0x00, 0x00, 0x00, 0x82] = .ok .getAbc := by decide
theorem test_decode_zeroCal :
    decode [0xFF, 0x01, 0x87, 0x00, 0x00, 0x00, 0x00, 0x00, 0x78] = .ok .zeroCal := by decide
theorem test_decode_getVersion :
    decode [0xFF, 0x01, 0xA0, 0x00, 0x00, 0x00, 0x00, 0x00, 0x5F] = .ok .getVersion := by decide
theorem test_decode_open : decode [0x00] = .ok (.openHandle false) ∧ decode [0x10] = .ok (.openHandle true) := by
  decide
theorem test_decode_close : decode [0x01] = .ok .closeHandle ∧ decode [0x11] = .ok .closeHandle := by decide

/-- Words of no instruction are rejected by name: a code above 7, stray bits, a wrong checksum, an opcode outside the
catalogue, a payload no command sends, a wrong length. -/
theorem test_decode_rejects :
    decode [0x08] = .error .noSuchOperation ∧ decode [0x20] = .error .strayHostBits ∧
    decode [0xFF, 0x01, 0x86, 0x00, 0x00, 0x00, 0x00, 0x00, 0x78] = .error .badChecksum ∧
    decode [0xFF, 0x01, 0xFF, 0x00, 0x00, 0x00, 0x00, 0x00, 0x00] = .error .unknownCommand ∧
    decode [0xFF, 0x01, 0x86, 0x01, 0x02, 0x03, 0x04, 0x05, 0x6A] = .error .badPayload ∧
    decode [0xFF, 0x01] = .error .wrongLength := by decide

/-- The table's 72-bit words, byte 0 most significant (00_scope.md R10), and its 4-bit host codes. -/
theorem test_tableWord :
    decodeTableWord 72 0xFF0186000000000079 = some .readCo2 ∧
    decodeTableWord 72 0xFF0179A000000000E6 = some .setAbcOn ∧
    decodeTableWord 72 0x7900000000008601FF = some .readCo2 ∧
    decodeTableWord 4 0x0 = some (.openHandle false) ∧ decodeTableWord 4 0x1 = some .closeHandle ∧
    decodeTableWord 72 0 = none := by decide

/-- R210: the codes of `status`. -/
theorem test_statusCodes :
    [Status.ok, .channelOpenError, .notOpen, .writeError, .readTimeout, .checksumMismatch, .unexpectedResponse,
      .alreadyClosed].map Status.code = [0, 1, 2, 3, 4, 5, 6, 7] := by decide

/-! ## The codec -/

/-- V-C3 and V-C6: the corners of the checksum. -/
theorem test_checksum_corners :
    checksum #v[0xFF, 0x01, 0xFF, 0x00, 0x00, 0x00, 0x00, 0x00, 0x00] = 0x00 ∧
    checksum #v[0xFF, 0x01, 0xFE, 0x00, 0x00, 0x00, 0x00, 0x00, 0x00] = 0x01 := by decide

/-- V-E8 and V-E11: a full payload, and six bytes. -/
theorem test_encode :
    codecEncode 0x86 [1, 2, 3, 4, 5] 5 = some #v[0xFF, 0x01, 0x86, 0x01, 0x02, 0x03, 0x04, 0x05, 0x6A] ∧
    codecEncode 0x86 [1, 2, 3, 4, 5, 6] 6 = none := by decide

/-- V-D4 and V-D9: a flipped bit, and a valid frame of another layout. -/
theorem test_decode_frames :
    codecDecode #v[0xFF, 0x01, 0x86, 0x02, 0x48, 0x2D, 0x00, 0x00, 0xF2] =
      .error { expected := 0x02, actual := 0xF2 } ∧
    codecDecode #v[0xFF, 0x86, 0x02, 0x58, 0x2D, 0x00, 0x00, 0x00, 0xF3] =
      .ok { rcmd := 0x02, rpay := #v[0x58, 0x2D, 0x00, 0x00, 0x00] } := by decide

/-! ## One step of each instruction -/

/-- V-K1. -/
theorem test_readCo2 :
    endsIn (exec .readCo2 (answering vk1)) (fun t => decide (t.status = .ok ∧ t.typed.co2Ppm = 600 ∧
      t.celsius = 5 ∧ t.typed.tempValid = true ∧ t.result = [0x02, 0x58, 0x2D])) = true := by decide
/-- V-K2: the temperature byte 0x00 is -40. -/
theorem test_readCo2_coldest :
    endsIn (exec .readCo2 (answering #v[0xFF, 0x01, 0x86, 0x01, 0x90, 0x00, 0x00, 0x00, 0xE8]))
      (fun t => decide (t.typed.co2Ppm = 400 ∧ t.celsius = -40)) = true := by decide
/-- V-K8: payload bytes 0 and 1 are delivered and not interpreted. -/
theorem test_readTemp :
    endsIn (exec .readTemp (answering #v[0xFF, 0x01, 0x85, 0xAA, 0xBB, 0x00, 0x00, 0x00, 0x15]))
      (fun t => decide (t.status = .ok ∧ t.typed.tempRaw = 0 ∧ t.result = [0xAA, 0xBB, 0x00, 0x00])) = true := by
  decide
/-- V-K6. -/
theorem test_readTemp_value :
    endsIn (exec .readTemp (answering #v[0xFF, 0x01, 0x85, 0x00, 0x00, 0x09, 0xC4, 0x00, 0xAD]))
      (fun t => decide (t.typed.tempRaw = 2500)) = true := by decide
/-- V-K9. -/
theorem test_setAbcOn :
    endsIn (exec .setAbcOn (answering #v[0xFF, 0x01, 0x79, 0x01, 0x00, 0x00, 0x00, 0x00, 0x85]))
      (fun t => decide (t.status = .ok ∧ t.raw.resLen = 0 ∧
        t.txs = [0xFF, 0x01, 0x79, 0xA0, 0x00, 0x00, 0x00, 0x00, 0xE6])) = true := by decide
/-- V-K10. -/
theorem test_setAbcOff :
    endsIn (exec .setAbcOff (answering #v[0xFF, 0x01, 0x79, 0x00, 0x00, 0x00, 0x00, 0x00, 0x86]))
      (fun t => decide (t.status = .ok ∧
        t.txs = [0xFF, 0x01, 0x79, 0x00, 0x00, 0x00, 0x00, 0x00, 0x86])) = true := by decide
/-- V-K13: any non-zero byte is on. -/
theorem test_getAbc_on :
    endsIn (exec .getAbc (answering #v[0xFF, 0x01, 0x7D, 0x00, 0x00, 0x00, 0x00, 0x80, 0x02]))
      (fun t => decide (t.typed.abcOn = true ∧ t.raw.resLen = 5)) = true := by decide
/-- V-K14: payload byte 0 is not the flag. -/
theorem test_getAbc_off :
    endsIn (exec .getAbc (answering #v[0xFF, 0x01, 0x7D, 0x01, 0x00, 0x00, 0x00, 0x00, 0x81]))
      (fun t => decide (t.status = .ok ∧ t.typed.abcOn = false)) = true := by decide
/-- V-K16: ZERO_CAL on a silent channel. -/
theorem test_zeroCal_silent :
    endsIn (exec .zeroCal (opened (reply (silence 10)).answers)) (fun t => decide (t.status = .readTimeout)) = true := by
  decide
/-- V-K16 with ZEROCAL_AWAITS_RESPONSE = false. -/
theorem test_zeroCal_noResponse :
    endsIn (exec .zeroCal { opened [.flushed ⟨[], 0⟩, .wrote 9 ⟨[], 0⟩] with
        cfg := { Config.default with zeroCalAwaitsResponse := false } })
      (fun t => decide (t.status = .ok ∧ t.raw.resLen = 0 ∧ t.script = [])) = true := by decide
/-- V-K18: payload byte 4 is not part of the version. -/
theorem test_getVersion :
    endsIn (exec .getVersion (answering #v[0xFF, 0x01, 0xA0, 0x41, 0x42, 0x43, 0x44, 0x45, 0x10]))
      (fun t => decide (t.handle.ver = #v[0x41, 0x42, 0x43, 0x44] ∧ t.handle.verValid = true)) = true := by decide
/-- V-H1. -/
theorem test_open :
    endsIn (exec (.openHandle false) (fresh (.opened true :: (reply (whole vk17)).answers)))
      (fun t => decide (t.status = .ok ∧ t.handle.hs = .opened ∧ t.handle.ver = #v[0x30, 0x35, 0x31, 0x36] ∧
        t.handle.verValid = true)) = true := by decide
/-- R192: a try whose response is corrupted, and then one that gets the version. -/
theorem test_open_secondTry :
    endsIn (exec (.openHandle true) (fresh (.opened true :: ((reply (whole vd3)).answers ++
        (reply (whole vk17)).answers))))
      (fun t => decide (t.status = .ok ∧ t.handle.ver = #v[0x30, 0x35, 0x31, 0x36] ∧ t.handle.verbose = true)) =
      true := by decide
/-- V-H2. -/
theorem test_open_fails :
    endsIn (exec (.openHandle false) (fresh [.opened false]))
      (fun t => decide (t.status = .channelOpenError ∧ t.handle.hs = .closedNew)) = true := by decide
/-- V-H4. -/
theorem test_close_new :
    endsIn (exec .closeHandle State.reset) (fun t => decide (t.status = .notOpen)) = true := by decide
/-- V-H6. -/
theorem test_close_again :
    endsIn (exec .closeHandle closedAgain) (fun t => decide (t.status = .alreadyClosed)) = true := by decide

/-! ## The exchange -/

/-- V-X2 (S3): nine fragments of one byte. -/
theorem test_fragments :
    endsIn (exec .readCo2 (opened (reply (vk1.toList.map fun b => ⟨[b], 0⟩)).answers))
      (fun t => decide (t.status = .ok ∧ t.typed.co2Ppm = 600)) = true := by decide
/-- V-X5: eight bytes and then silence. -/
theorem test_short_response :
    endsIn (exec .readCo2 (opened (reply (⟨vk1.toList.take 8, 0⟩ :: silence 9)).answers))
      (fun t => decide (t.status = .readTimeout ∧ t.handle.hs = .opened)) = true := by decide
/-- V-X10. -/
theorem test_corrupted :
    endsIn (exec .readCo2 (answering vd3))
      (fun t => decide (t.status = .checksumMismatch ∧ t.sums = { csExp := 0xF2, csAct := 0xF3 })) = true := by decide
/-- V-X12 and R64: bytes that arrive before the first read begin the response, and what follows the nine stays in the
channel. -/
theorem test_scattered :
    endsIn (exec .readCo2 (opened scattered.answers))
      (fun t => decide (t.status = .ok ∧ t.typed.co2Ppm = 600 ∧ t.chan.inBuf = [0xAA, 0xBB])) = true := by decide
/-- V-X13: a write count of ten. -/
theorem test_outside_contract :
    refusedBy (exec .readCo2 (opened [.flushed ⟨[], 0⟩, .wrote 10 ⟨[], 0⟩])) .channelContract = true := by decide

/-! ## Witnesses: the codec and the encodings -/

theorem witness_ChecksumFormula :
    coveredSum #v[0xFF, 0x01, 0xFF, 0x00, 0x00, 0x00, 0x00, 0x00, 0x00] % 256 = 0 ∧
    coveredSum #v[0xFF, 0x01, 0x00, 0x00, 0x00, 0x00, 0x00, 0x00, 0x00] % 256 = 1 ∧
    coveredSum #v[0xFF, 0x01, 0xFE, 0x00, 0x00, 0x00, 0x00, 0x00, 0x00] % 256 = 0xFF := by decide

/-- V-C2 and V-C9 for the permutation and the equal sums; the covered bytes at both ends for the change. -/
theorem witness_ChecksumLaws :
    (((vk1.toList.drop 1).take 7).Perm
      (((#v[0xFF, 0x01, 0x86, 0x58, 0x02, 0x2D, 0x00, 0x00, 0xF2] : Frame).toList.drop 1).take 7)) ∧
    coveredSum vk1 % 256 = coveredSum #v[0x00, 0x01, 0x86, 0x03, 0x57, 0x2D, 0x00, 0x00, 0xF2] % 256 ∧
    (0x00 : Byte) ≠ vk1[(1 : Fin 9)] ∧ (0x01 : Byte) ≠ vk1[(7 : Fin 9)] := by decide

theorem witness_EncodeBuildsFrame :
    ([] : List Byte).length ≤ 5 ∧ ([1, 2, 3, 4, 5] : List Byte).length ≤ 5 ∧
    5 < ([1, 2, 3, 4, 5, 6] : List Byte).length := by decide

theorem witness_DecodeTestsOnlyTheChecksum : checksum vk1 = vk1[8] ∧ checksum vd3 ≠ vd3[8] := by decide

theorem witness_CodecRoundTrip : ([] : List Byte).length ≤ 5 ∧ ([1, 2, 3, 4, 0] : List Byte).length ≤ 5 := by decide

/-- The first and the last bit position of the range, on V-D2. -/
theorem witness_SingleBitFlipsAreDetected :
    codecDecode vk1 = .ok { rcmd := 0x86, rpay := #v[0x02, 0x58, 0x2D, 0x00, 0x00] } ∧
    1 ≤ (1 : Fin 9).val ∧ 1 ≤ (8 : Fin 9).val ∧ 0 < 8 ∧ 7 < 8 := by decide

theorem witness_DecodeEncode : Instr.wf (.openHandle true) = true ∧ Instr.wf .zeroCal = true := by decide

/-- The first and the last code that is no operation. -/
theorem witness_HostCodes :
    8 ≤ (0x8 : BitVec 4).toNat ∧ 8 ≤ (0xF : BitVec 4).toNat ∧ State.reset.phase = .idle ∧
    { State.reset with hostIn := [.request ⟨0x8, false⟩] }.hostIn = .request ⟨0x8, false⟩ :: [] ∧
    { State.reset with hostIn := [.request ⟨0xF, true⟩] }.hostIn = .request ⟨0xF, true⟩ :: [] := by decide

theorem witness_CatalogueFramesAreEncoded :
    exchangeOf .readCo2 = some exchangeReadCo2 ∧ exchangeOf .getVersion = some exchangeGetVersion := by decide

/-! ## Witnesses: reset and the host's step -/

/-- A block that has been used, idle, with a reset presented. -/
def resetting : State := { closedAgain with hostIn := [.reset, .request ⟨0x0, true⟩] }

theorem witness_ResetLeaves :
    resetting.phase = .idle ∧ resetting.hostIn = .reset :: [.request ⟨0x0, true⟩] := by decide

/-- A request presented to an idle block; nothing presented; a busy block; a table word. -/
theorem witness_StepRunsDecoded :
    (State.reset.present ⟨0x1, true⟩).phase = .idle ∧
    (State.reset.present ⟨0x1, true⟩).hostIn = .request ⟨0x1, true⟩ :: [] ∧
    decodeHost ⟨0x1, true⟩ = .ok .closeHandle ∧ State.reset.hostIn = [] ∧
    (toPhase .flush State.reset).phase ≠ .idle ∧ decodeTableWord 4 0x1 = some .closeHandle := by decide

/-- A block in the middle of an exchange of READ_CO2, with the channel's next answers. -/
def busy (p : Phase) (script : List ChAnswer) : State :=
  toPhase p (startExchange (latch .readCo2 none (some exchangeReadCo2) (opened script)))

/-- A step that leaves the block busy, and one that completes the operation. -/
theorem witness_HeldWhileBusy :
    (busy .flush [.flushed ⟨[], 0⟩]).phase ≠ .idle ∧
    endsIn (step (busy .flush [.flushed ⟨[], 0⟩])) (fun t => decide (t.phase ≠ .idle)) = true ∧
    endsIn (step (busy .write [.wrote 8 ⟨[], 0⟩])) (fun t => decide (t.phase = .idle)) = true := by decide

/-- OPEN, CLOSE and SET_ABC accepted, each busy with its operation; commands with an exchange. -/
theorem witness_LatchesAtAcceptance :
    endsIn (beginOpen true State.reset) (fun u => decide (u.phase ≠ .idle)) = true ∧
    endsIn (beginClose (opened [])) (fun u => decide (u.phase ≠ .idle)) = true ∧
    endsIn (beginCommand .setAbc (some true) exchangeSetAbcOn (opened [])) (fun u => decide (u.phase ≠ .idle)) =
      true ∧
    exchangeOf .setAbcOn = some exchangeSetAbcOn ∧ exchangeOf .setAbcOff = some exchangeSetAbcOff ∧
    exchangeOf .readCo2 = some exchangeReadCo2 := by decide

/-! ## Witnesses: the handle -/

theorem witness_CommandNeedsOpenHandle :
    Instr.isCommand .readCo2 = true ∧ Instr.isCommand .zeroCal = true ∧ State.reset.phase = .idle ∧
    State.reset.handle.hs ≠ .opened ∧ closedAgain.phase = .idle ∧ closedAgain.handle.hs ≠ .opened := by decide

theorem witness_OpenRefusedWhenNotNew :
    (opened []).phase = .idle ∧ (opened []).handle.hs ≠ .closedNew ∧ closedAgain.handle.hs ≠ .closedNew ∧
    resetting.phase = .idle ∧ resetting.hostIn = .reset :: [.request ⟨0x0, true⟩] := by decide

theorem witness_delivers_whole : Delivers Config.default (reply (whole vk17)) vk17 := by
  constructor <;> decide

/-- A response in two fragments around an empty read. -/
theorem witness_delivers_fragments :
    Delivers Config.default (reply [⟨vk1.toList.take 4, 0⟩, ⟨[], 3⟩, ⟨vk1.toList.drop 4, 0⟩]) vk1 := by
  constructor <;> decide

/-- Bytes before the first read and beyond the ninth. -/
theorem witness_delivers_scattered : Delivers Config.default scattered vk1 := by
  constructor <;> decide

/-- The last read the ceiling allows completes the frame (V-X4). -/
theorem witness_delivers_last : Delivers Config.default (reply (silence 9 ++ whole vk1)) vk1 := by
  constructor <;> decide

/-- A build whose probe tries three times. -/
def threeTries : Config := { Config.default with openVersionTries := 3 }

/-- A try that fails with each of the three errors of an exchange. -/
def failedTries : List Try :=
  [.short 8 ⟨[], 0⟩ ⟨[], 3⟩, .silent (reply (silence 10)), .corrupt (reply (whole vd3)) vd3]

theorem witness_failedTries : ∀ a ∈ failedTries, a.Fails threeTries := by
  simp only [failedTries, List.mem_cons, List.not_mem_nil, or_false]
  rintro a (rfl | rfl | rfl)
  · show 8 < 9
    decide
  · show TimesOut _ _
    constructor <;> decide
  · exact ⟨by constructor <;> decide, by unfold Valid; decide⟩

/-- A fresh handle of that build whose probe fails at `tries` and is then answered as `script` says. -/
def probing (tries : List Try) (script : List ChAnswer) : State :=
  { fresh (.opened true :: (tries.flatMap Try.answers ++ script)) with cfg := threeTries }

/-- The version at the first try, and after two that failed. -/
theorem witness_OpenWithVersion (tries : List Try) (h : tries = [] ∨ tries = failedTries.take 2) :
    (probing tries ((reply (whole vk17)).answers ++ [])).phase = .idle ∧
    (probing tries ((reply (whole vk17)).answers ++ [])).handle.hs = .closedNew ∧
    tries.length < (probing tries ((reply (whole vk17)).answers ++ [])).cfg.openVersionTries ∧
    (∀ a ∈ tries, a.Fails (probing tries ((reply (whole vk17)).answers ++ [])).cfg) ∧
    Delivers (probing tries ((reply (whole vk17)).answers ++ [])).cfg (reply (whole vk17)) vk17 ∧ Valid vk17 ∧
    (probing tries ((reply (whole vk17)).answers ++ [])).script =
      .opened true :: (tries.flatMap Try.answers ++ ((reply (whole vk17)).answers ++ [])) := by
  have hd : Delivers threeTries (reply (whole vk17)) vk17 := by constructor <;> decide
  refine ⟨rfl, rfl, ?_, ?_, hd, by unfold Valid; decide, rfl⟩
  · rcases h with rfl | rfl <;> decide
  · rcases h with rfl | rfl
    · simp
    · exact fun a ha => witness_failedTries a (List.mem_of_mem_take ha)

theorem witness_OpenAbsorbsFailedTries :
    (probing failedTries []).phase = .idle ∧ (probing failedTries []).handle.hs = .closedNew ∧
    failedTries.length = (probing failedTries []).cfg.openVersionTries ∧
    (∀ a ∈ failedTries, a.Fails (probing failedTries []).cfg) ∧
    (probing failedTries []).script = .opened true :: (failedTries.flatMap Try.answers ++ []) :=
  ⟨rfl, rfl, rfl, witness_failedTries, rfl⟩

/-- OPEN that answers next: with a version, without one, and with a channel that does not open. -/
theorem witness_OpenCallBudget :
    endsIn (exec (.openHandle true) (fresh (.opened true :: (reply (whole vk17)).answers)))
      (fun t => t.handle.verValid) = true ∧
    endsIn (exec (.openHandle true) (probing failedTries [])) (fun t => !t.handle.verValid) = true ∧
    endsIn (exec (.openHandle true) (fresh [.opened false])) (fun t => decide (t.status = .channelOpenError)) =
      true := by decide

theorem witness_OpenFailure :
    (fresh [.opened false]).phase = .idle ∧ (fresh [.opened false]).handle.hs = .closedNew ∧
    (fresh [.opened false]).script = .opened false :: [] := by decide

theorem witness_OpenSucceedsForEveryDraw :
    (fresh [.opened true]).phase = .idle ∧ (fresh [.opened true]).handle.hs = .closedNew ∧
    (fresh [.opened true]).script = [.opened true] := by decide

theorem witness_ready (script : List ChAnswer) : (opened script).Ready := ⟨rfl, rfl, rfl⟩

theorem witness_CloseResult :
    (opened [.closed]).Ready ∧ (opened [.closed]).script = .closed :: [] ∧ State.reset.phase = .idle ∧
    State.reset.handle.hs = .closedNew ∧ closedAgain.phase = .idle ∧ closedAgain.handle.hs = .closedDone :=
  ⟨witness_ready _, rfl, rfl, rfl, rfl, rfl⟩

/-- An operation that answers next in each case of the table: OPEN, CLOSE and a command, in the states they have. -/
theorem witness_HandleTransitions :
    endsIn (exec (.openHandle true) (fresh [.opened false])) (fun _ => true) = true ∧
    endsIn (exec .closeHandle (opened [.closed])) (fun t => decide (t.handle.hs = .closedDone)) = true ∧
    endsIn (exec .getAbc (answering vk1)) (fun _ => true) = true ∧
    endsIn (exec .getAbc State.reset) (fun _ => true) = true ∧
    endsIn (exec .getAbc closedAgain) (fun _ => true) = true := by decide

/-- Idle states of the invariant: a handle closed again, and an open one. -/
theorem witness_inv (s : State) (h : s = closedAgain ∨ s = opened []) : s.Inv := by
  rcases h with rfl | rfl <;> constructor <;> simp [State.reset, closedAgain, opened, PhaseAgrees]

theorem witness_ClosedDoneIsTerminal :
    closedAgain.Inv ∧ closedAgain.handle.hs = .closedDone ∧ endsIn (step closedAgain) (fun _ => true) = true ∧
    ∀ rest, closedAgain.hostIn ≠ .reset :: rest :=
  ⟨witness_inv _ (.inl rfl), rfl, by decide, fun _ h => by cases h⟩

/-! ## Witnesses: results and errors of the commands -/

/-- The hypotheses of every result statement, for the response V-K1; the commands that await a response. -/
theorem witness_results :
    (answering vk1).Ready ∧ (answering vk1).script = (reply (whole vk1)).answers ++ [] ∧
    Delivers (answering vk1).cfg (reply (whole vk1)) vk1 ∧ Valid vk1 ∧
    (answering vk1).cfg.hasCo2Temp = true ∧ (answering vk1).cfg.zeroCalAwaitsResponse = true :=
  ⟨witness_ready _, rfl, by constructor <;> decide, by unfold Valid; decide, rfl, rfl⟩

theorem witness_SetAbcResult :
    (Instr.setAbcOn = .setAbcOn ∨ Instr.setAbcOn = .setAbcOff) ∧
    (Instr.setAbcOff = .setAbcOn ∨ Instr.setAbcOff = .setAbcOff) := by decide

/-- READ_CO2 of a build without the temperature byte. -/
theorem witness_ReadCo2Result_noTemp :
    ({ answering vk1 with cfg := { Config.default with hasCo2Temp := false } } : State).cfg.hasCo2Temp = false ∧
    ({ answering vk1 with cfg := { Config.default with hasCo2Temp := false } } : State).Ready ∧
    Delivers { Config.default with hasCo2Temp := false } (reply (whole vk1)) vk1 :=
  ⟨rfl, ⟨rfl, rfl, rfl⟩, by constructor <;> decide⟩

/-- An open handle of a build whose ZERO_CAL awaits no response. -/
def noResponse : State :=
  { opened [.flushed ⟨[0x55], 2⟩, .wrote 9 ⟨[], 1⟩] with
    cfg := { Config.default with zeroCalAwaitsResponse := false } }

theorem witness_ZeroCalResult :
    noResponse.cfg.zeroCalAwaitsResponse = false ∧ noResponse.Ready ∧
    noResponse.script = .flushed ⟨[0x55], 2⟩ :: .wrote 9 ⟨[], 1⟩ :: [] := ⟨rfl, ⟨rfl, rfl, rfl⟩, rfl⟩

/-- Short writes of none and of eight bytes (V-X9, V-X8). -/
theorem witness_ShortWriteIsWriteError :
    Instr.isCommand .zeroCal = true ∧ (opened [.flushed ⟨[], 0⟩, .wrote 0 ⟨[], 0⟩]).Ready ∧
    (opened [.flushed ⟨[], 0⟩, .wrote 0 ⟨[], 0⟩]).script = .flushed ⟨[], 0⟩ :: .wrote (0 : Nat) ⟨[], 0⟩ :: [] ∧
    (opened [.flushed ⟨[], 0⟩, .wrote 8 ⟨[], 0⟩]).script = .flushed ⟨[], 0⟩ :: .wrote (8 : Nat) ⟨[], 0⟩ :: [] ∧
    0 < 9 ∧ 8 < 9 :=
  ⟨by decide, witness_ready _, rfl, rfl, by decide, by decide⟩

/-- V-X3 and V-X5: silence, and eight bytes and then silence. -/
theorem witness_timesOut :
    TimesOut Config.default (reply (silence 10)) ∧
    TimesOut Config.default (reply (⟨vk1.toList.take 8, 0⟩ :: silence 9)) := by
  constructor <;> constructor <;> decide

/-- V-X7 under the other counting: empty reads alone are charged. -/
theorem witness_timesOut_zeroReturns :
    TimesOut { Config.default with attemptCounting := .zeroReturnsOnly }
      (reply (⟨vk1.toList.take 8, 0⟩ :: silence 10)) := by
  constructor <;> decide

theorem witness_SilenceIsReadTimeout :
    Instr.isCommand .readTemp = true ∧ Awaits (opened (reply (silence 10)).answers).cfg .readTemp ∧
    Awaits (opened (reply (silence 10)).answers).cfg .zeroCal ∧ (opened (reply (silence 10)).answers).Ready ∧
    (opened (reply (silence 10)).answers).script = (reply (silence 10)).answers ++ [] ∧
    TimesOut (opened (reply (silence 10)).answers).cfg (reply (silence 10)) :=
  ⟨by decide, fun _ => rfl, fun _ => rfl, witness_ready _, rfl, witness_timesOut.1⟩

theorem witness_CorruptionIsChecksumMismatch :
    Instr.isCommand .getAbc = true ∧ Awaits (answering vd3).cfg .getAbc ∧ (answering vd3).Ready ∧
    (answering vd3).script = (reply (whole vd3)).answers ++ [] ∧ Delivers (answering vd3).cfg (reply (whole vd3)) vd3 ∧
    ¬ Valid vd3 :=
  ⟨by decide, fun _ => rfl, witness_ready _, rfl, by constructor <;> decide, by unfold Valid; decide⟩

/-! ## Witnesses: the rows of an exchange -/

theorem witness_FlushRow :
    (busy .flush [.flushed ⟨[0x55], 0⟩]).phase = .flush ∧
    (busy .flush [.flushed ⟨[0x55], 0⟩]).chan.established = true ∧
    (busy .flush [.flushed ⟨[0x55], 0⟩]).script = .flushed ⟨[0x55], 0⟩ :: [] := by decide

/-- A read of none and of all nine bytes at the start, and of the last byte with the last attempt. -/
def reading (n a : Nat) (k : Int) (arrive : List Byte) : State :=
  { busy .read [.gave k ⟨arrive, 0⟩] with
    frames := { State.reset.frames with rxCnt := n, att := a } }

theorem witness_ReadRow :
    (reading 0 0 0 []).phase = .read ∧ (reading 0 0 0 []).chan.established = true ∧
    (reading 0 0 0 []).frames.rxCnt < 9 ∧ (reading 8 9 1 [0xF2]).frames.rxCnt < 9 ∧
    (reading 8 9 1 [0xF2]).frames.att < (reading 8 9 1 [0xF2]).cfg.retryCeiling ∧
    (reading 0 0 0 []).script = .gave (0 : Nat) ⟨[], 0⟩ :: [] := by decide

theorem witness_ReadRow_counts :
    1 ≤ 9 - (reading 8 9 1 [0xF2]).frames.rxCnt ∧
    1 ≤ ((reading 8 9 1 [0xF2]).chan.inBuf ++ [0xF2]).length ∧
    9 ≤ 9 - (reading 0 0 9 vk1.toList).frames.rxCnt ∧
    9 ≤ ((reading 0 0 9 vk1.toList).chan.inBuf ++ vk1.toList).length ∧
    (reading 0 0 9 vk1.toList).cfg.attemptCounting = .allCalls := by decide

/-- The same row in a build that charges empty reads only. -/
theorem witness_ReadRow_zeroReturns :
    ({ reading 0 0 0 [] with cfg := { Config.default with attemptCounting := .zeroReturnsOnly } } :
      State).cfg.attemptCounting = .zeroReturnsOnly ∧
    ({ reading 0 0 0 [] with cfg := { Config.default with attemptCounting := .zeroReturnsOnly } } :
      State).phase = .read := by decide

/-- Nine bytes held with the budget used up (V-X4). -/
theorem witness_NineBytesGoToDecode :
    (reading 9 10 0 []).phase = .read ∧ (reading 9 10 0 []).frames.rxCnt = 9 := by decide

/-- A block about to make each of the five calls. -/
theorem witness_callsNext (a : ChAnswer) :
    CallsNext { fresh [a] with phase := .chOpen } ∧ CallsNext (busy .flush [a]) ∧ CallsNext (busy .write [a]) ∧
    CallsNext (busy .read [a]) ∧ CallsNext (busy .chClose [a]) :=
  ⟨trivial, rfl, ⟨rfl, rfl⟩, ⟨rfl, Nat.zero_lt_succ 8, Nat.zero_lt_succ 9⟩, rfl⟩

/-- Counts just outside the contract at both ends of both ranges. -/
theorem witness_AnswersOutsideTheContract :
    (busy .write [.wrote 10 ⟨[], 0⟩]).phase = .write ∧
    (busy .write [.wrote 10 ⟨[], 0⟩]).script = .wrote 10 ⟨[], 0⟩ :: [] ∧
    (((-1 : Int) < 0 ∨ 9 < (-1 : Int)) ∧ ((10 : Int) < 0 ∨ 9 < (10 : Int))) ∧
    (reading 8 0 2 []).phase = .read ∧ (reading 8 0 2 []).script = .gave 2 ⟨[], 0⟩ :: [] ∧
    ((2 : Int) < 0 ∨ 9 - ((reading 8 0 2 []).frames.rxCnt : Int) < 2) ∧
    (busy .flush [.failed]).script = .failed :: [] ∧ (busy .read [.never]).script = .never :: [] := by decide

/-- R38: RXS holds the nine bytes of the second of two exchanges, whose flush emptied it. -/
theorem test_rxs_emptied :
    endsIn (exec .readCo2 { answering vk1 with calls := [.flush, .write (wireFrame .readCo2) 9, .read 9 [0x55]] })
      (fun t => decide (t.rxs = vk1.toList)) = true := by decide

/-- A step in each busy phase that answers next. -/
theorem witness_Streams :
    endsIn (step { fresh [.opened false] with phase := .chOpen }) (fun _ => true) = true ∧
    endsIn (step (busy .flush [.flushed ⟨[], 0⟩])) (fun _ => true) = true ∧
    endsIn (step (busy .write [.wrote 9 ⟨[], 0⟩])) (fun _ => true) = true ∧
    endsIn (step (reading 8 9 1 [0xF2])) (fun _ => true) = true ∧
    endsIn (step (busy .decode [])) (fun _ => true) = true ∧
    endsIn (step (busy .chClose [.closed])) (fun _ => true) = true := by decide

/-! ## Witnesses: over all operations -/

theorem witness_CommandsEndForEveryDraw :
    Instr.isCommand .readCo2 = true ∧ (opened []).Ready ∧ (opened []).script = [] :=
  ⟨by decide, witness_ready _, rfl⟩

/-- A command of each kind of end that answers next, for the statements over every next state. -/
theorem witness_CommandCallBudget :
    Instr.isCommand .readCo2 = true ∧ (answering vk1).phase = .idle ∧
    endsIn (exec .readCo2 (answering vk1)) (fun t => decide (t.status = .ok)) = true ∧
    (answering vk1).cfg.attemptCounting = .allCalls := by decide

/-- OPEN, CLOSE and a command that answer next. -/
theorem witness_StatusCodes :
    endsIn (exec (.openHandle true) (fresh [.opened false])) (fun t => decide (t.status.code = 0x1)) = true ∧
    endsIn (exec .closeHandle closedAgain) (fun t => decide (t.status.code = 0x7)) = true ∧
    endsIn (exec .setAbcOn (opened [.flushed ⟨[], 0⟩, .wrote 3 ⟨[], 0⟩])) (fun t => decide (t.status.code = 0x3)) =
      true ∧ Instr.isCommand .setAbcOn = true := by decide

theorem witness_StaleBytesNeverLeak :
    Instr.isCommand .getVersion = true ∧ (opened []).phase = .idle ∧ (opened []).handle.hs = .opened := by decide

/-- The same machine with another verbosity and a cached version. -/
theorem witness_NotesDecideNothing :
    (∀ v, Instr.readCo2 ≠ .openHandle v) ∧ (opened []).phase = .idle ∧
    SameButNotes (opened []) { opened [] with
      handle := { hs := .opened, verbose := true, verValid := true, ver := #v[0x30, 0x35, 0x31, 0x36] } } :=
  ⟨nofun, rfl, rfl, rfl⟩

/-- A command that ends with OK, with an error, and before its exchange, for the statements over every next state. -/
theorem witness_CommandsKeepTheHandle :
    endsIn (exec .getVersion (answering vk17)) (fun t => decide (t.status = .ok)) = true ∧
    endsIn (exec .getVersion (answering vd3)) (fun t => decide (t.status ≠ .ok)) = true ∧
    endsIn (exec .readCo2 State.reset) (fun t => decide (t.status = .notOpen)) = true := by decide

/-- A busy state of the invariant, whose next row answers next. -/
theorem witness_inv_busy : (busy .flush [.flushed ⟨[], 0⟩]).Inv := by
  constructor <;> simp [busy, toPhase, startExchange, latch, Latches.accept, opened, State.reset, PhaseAgrees]
  exact ⟨exchangeReadCo2, by simp [exchangesOf], rfl, rfl, rfl, rfl⟩

theorem witness_StepKeepsInvariant :
    (opened []).Inv ∧ endsIn (step (opened [])) (fun _ => true) = true ∧
    endsIn (step (busy .flush [.flushed ⟨[], 0⟩])) (fun _ => true) = true :=
  ⟨witness_inv _ (.inr rfl), by decide, by decide⟩

theorem witness_OnlyTheHostIsRefused : (opened []).Inv ∧ (opened []).script = [] :=
  ⟨witness_inv _ (.inr rfl), rfl⟩

end Sys2Proof.Tests
end

section
/-! Proofs about the encodings: which host codes select an operation, and what a step does with one that selects none. -/

namespace Sys2Proof.Machine

/-- 30_encoding.md R94: no operation has a code of 0x8 or above. -/
theorem decodeHost_of_eight_le {r : HostReq} (h : 8 ≤ r.op.toNat) : decodeHost r = .error .noSuchOperation := by
  obtain ⟨n, hn⟩ := Nat.exists_eq_add_of_le' h
  simp only [decodeHost, hn]

/-- An idle block refuses a request that selects no operation, whatever the reason. -/
theorem step_idle_request_error {s : State} {r : HostReq} {rest : List HostEvent} {e : DecodeError}
    (hp : s.phase = .idle) (hs : s.hostIn = .request r :: rest) (hd : decodeHost r = .error e) :
    step s = .refused .noSuchOperation := by
  simp only [step, hp, hs, hd, ↓reduceIte]

/-- Settles O9: each code below 0x8 is one line of the decoding table; the others select nothing, which an idle step
refuses. -/
theorem hostCodes : Obligations.HostCodes := by
  unfold Obligations.HostCodes
  constructor
  · intro a
    exact ⟨rfl, rfl, rfl, rfl, rfl, rfl, rfl, rfl⟩
  · intro op a s rest hop hp hs
    exact step_idle_request_error hp hs (decodeHost_of_eight_le hop)

end Sys2Proof.Machine
end

section
/-! Proofs about the codec: the checksum and what it detects, and ENCODE followed by DECODE (40_codec.md). -/

namespace Sys2Proof.Machine

/-! ## The checksum

It reads neither byte 0 nor byte 8 (40_codec.md R110). -/

@[simp] theorem checksumSum_set_zero (b : Frame) (v : Byte) : checksumSum (b.set 0 v) = checksumSum b := by
  simp [checksumSum]

@[simp] theorem checksumSum_set_eight (b : Frame) (v : Byte) : checksumSum (b.set 8 v) = checksumSum b := by
  simp [checksumSum]

@[simp] theorem checksum_set_zero (b : Frame) (v : Byte) : checksum (b.set 0 v) = checksum b :=
  checksum_congr (checksumSum_set_zero b v)

@[simp] theorem checksum_set_eight (b : Frame) (v : Byte) : checksum (b.set 8 v) = checksum b :=
  checksum_congr (checksumSum_set_eight b v)

/-- A byte is the checksum of a frame exactly when it completes the sum to a multiple of 256 (40_codec.md R111). -/
theorem checksum_eq_byte_iff (b : Frame) (x : Byte) : checksum b = x ↔ (checksumSum b + x.toNat) % 256 = 0 := by
  have hx : x.toNat < 256 := x.isLt
  rw [← BitVec.toNat_inj, checksum_toNat]
  omega

/-- The sum does not see the order of the covered bytes (40_codec.md R111 d). -/
theorem coveredSum_perm {b c : Frame} (h : ((b.toList.drop 1).take 7).Perm ((c.toList.drop 1).take 7)) :
    coveredSum b = coveredSum c :=
  (h.map BitVec.toNat).sum_eq

/-- One covered byte given another value: the sum moves by less than 256, so the checksum moves (40_codec.md R111 e). -/
theorem checksum_set_ne {b : Frame} {i : Nat} (hi : i < 9) (h1 : 1 ≤ i) (h7 : i ≤ 7) {v : Byte} (hv : v ≠ b[i]) :
    checksum (b.set i v) ≠ checksum b := by
  have hsum := checksumSum_set b i hi h1 h7 v
  have hne : v.toNat ≠ b[i].toNat := mt BitVec.eq_of_toNat_eq hv
  have hlt : v.toNat < 256 := v.isLt
  have hlt' : b[i].toNat < 256 := b[i].isLt
  rw [Ne, checksum_eq_iff]
  omega

/-- Settles O2: the laws over the sum, carried to the sum the statement writes by `coveredSum_eq`. -/
theorem checksumLaws : Obligations.ChecksumLaws := by
  unfold Obligations.ChecksumLaws
  refine ⟨fun b => ?negatedSum, fun f => ?valid, checksum_set_zero, fun b c h => ?permuted, fun b c h => ?sameSum,
    fun b i v h1 h7 hv => checksum_set_ne i.isLt h1 h7 hv⟩
  case negatedSum =>
    rw [checksum_toNat, coveredSum_eq]
    omega
  case valid => rw [coveredSum_eq, checksum_eq_byte_iff]
  case permuted => exact checksum_congr (by rw [← coveredSum_eq, ← coveredSum_eq, coveredSum_perm h])
  case sameSum => rwa [checksum_eq_iff, ← coveredSum_eq, ← coveredSum_eq]

/-- Settles O1: the formula by `checksum_toNat`, and its corner cases from the byte that completes the sum. -/
theorem checksumFormula : Obligations.ChecksumFormula := by
  unfold Obligations.ChecksumFormula
  refine ⟨fun b => ?formula, fun b v w => ?ends, fun b h => ?sum0, fun b h => ?sum1, fun b h => ?sum255⟩
  case formula =>
    rw [checksum_toNat, coveredSum_eq]
    omega
  case ends => rw [checksum_set_eight, checksum_set_zero]
  all_goals
    rw [coveredSum_eq] at h
    simp only [checksum_eq_byte_iff, BitVec.reduceToNat]
    omega

/-! ## Flipped bits -/

/-- Flipping a bit changes a byte. -/
theorem xor_bit_ne (x : Byte) {k : Nat} (hk : k < 8) : x ^^^ (1#8 <<< k) ≠ x := by
  intro h
  have hbit := congrArg (·.getLsbD k) h
  simp [hk] at hbit

/-- Byte 8 moves and the checksum stays (40_codec.md R118). -/
theorem not_valid_set_eight {f : Frame} (hf : Valid f) {v : Byte} (hv : v ≠ f[8]) : ¬ Valid (f.set 8 v) := by
  rw [Valid] at hf ⊢
  rw [checksum_set_eight, Vector.getElem_set_self, hf]
  exact hv.symm

/-- Byte 8 stays and the checksum moves (40_codec.md R118). -/
theorem not_valid_set_covered {f : Frame} (hf : Valid f) {i : Nat} (hi : i < 9) (h1 : 1 ≤ i) (h7 : i ≤ 7) {v : Byte}
    (hv : v ≠ f[i]) : ¬ Valid (f.set i v) := by
  have hkept : (f.set i v)[8] = f[8] := Vector.getElem_set_ne hi (by decide) (by omega)
  rw [Valid] at hf ⊢
  rw [hkept, ← hf]
  exact checksum_set_ne hi h1 h7 hv

/-- Stronger than R118: not only a flipped bit, any other value in one of bytes 1 to 8 is detected. -/
theorem not_valid_set {f : Frame} (hf : Valid f) {i : Nat} (hi : i < 9) (h1 : 1 ≤ i) {v : Byte} (hv : v ≠ f[i]) :
    ¬ Valid (f.set i v) := by
  obtain h7 | rfl : i ≤ 7 ∨ i = 8 := by omega
  · exact not_valid_set_covered hf hi h1 h7 hv
  · exact not_valid_set_eight hf hv

/-- Only a valid frame decodes (40_codec.md R114). -/
theorem valid_of_codecDecode_ok {f : Frame} {d : Decoded} (h : codecDecode f = .ok d) : Valid f := by
  by_contra hinvalid
  rw [codecDecode_invalid hinvalid] at h
  cases h

/-- Settles O6: the flipped byte is another byte, and a valid frame with one byte replaced is no longer valid. -/
theorem singleBitFlipsAreDetected : Obligations.SingleBitFlipsAreDetected := by
  unfold Obligations.SingleBitFlipsAreDetected
  intro f d hd i k h1 hk
  have hinvalid : ¬ Valid (flipBit f i k) :=
    not_valid_set (valid_of_codecDecode_ok hd) i.isLt h1 (xor_bit_ne f[i] hk)
  exact ⟨_, codecDecode_invalid hinvalid⟩

/-! ## ENCODE and DECODE -/

/-- The payload bytes of a request are the payload, then zeros (30_encoding.md R86). -/
theorem paddedBytes_eq {pl : List Byte} (h : pl.length ≤ 5) :
    (List.range 5).map (paddedByte pl pl.length) = pl ++ List.replicate (5 - pl.length) 0x00 := by
  apply List.ext_getElem
  · simp only [List.length_map, List.length_range, List.length_append, List.length_replicate]
    omega
  · intro p hp _
    by_cases hlt : p < pl.length <;> simp [paddedByte, List.getElem_append, hlt]

/-- A frame with the checksum of its other bytes stored in byte 8 is valid, as byte 8 is not read. -/
theorem valid_set_checksum (b : Frame) : Valid (b.set 8 (checksum b)) := by
  rw [Valid, checksum_set_eight, Vector.getElem_set_self]

/-- What ENCODE builds is a valid frame that holds the command byte and the padded payload (40_codec.md R112, R113). -/
theorem codecEncode_spec (cmd : Byte) {pl : List Byte} (h : pl.length ≤ 5) :
    ∃ f, codecEncode cmd pl pl.length = some f ∧ Valid f ∧ f[2] = cmd ∧
      (framePayload f).toList = pl ++ List.replicate (5 - pl.length) 0x00 :=
  ⟨_, codecEncode_of_le h, valid_set_checksum _, rfl, paddedBytes_eq h⟩

/-- Settles O5: DECODE accepts the valid frame ENCODE builds and reads its two fields back. -/
theorem codecRoundTrip : Obligations.CodecRoundTrip := by
  unfold Obligations.CodecRoundTrip
  intro cmd pl h
  obtain ⟨f, hencode, hvalid, hcmd, hpayload⟩ := codecEncode_spec cmd h
  exact ⟨f, _, hencode, codecDecode_valid hvalid, hcmd, hpayload⟩

end Sys2Proof.Machine
end

section
/-! Proofs about the handle: a command needs an open one, OPEN a new one, and a reset gives a new one
(43_handle.md R194, R195). -/

namespace Sys2Proof.Machine

/-! ## A handle that is not open -/

/-- A command on an idle block whose handle is not open takes the error and runs no row (43_handle.md R194). -/
theorem exec_command_of_not_opened {i : Instr} {s : State} (hi : i.isCommand = true) (hp : s.phase = .idle)
    (hs : s.handle.hs ≠ .opened) :
    exec i s = .next (raise .notOpen (latch (opOf i) (argOf i) (some (reqOf i)) s)) := by
  rw [exec_command hi hp, if_neg hs]

/-- An error taken at acceptance completes the operation. -/
theorem completed_raise_latch (e : OpError) (op : HostOp) (arg : Option Bool) (r : Option ExchangeReq) (s : State) :
    Completed s (raise e (latch op arg r s)) e.status := by
  simp [Completed]

/-- Settles O16: the next state is the latched state after error entry, and neither operation reaches the channel, the
handle, the parameters or the host port. -/
theorem commandNeedsOpenHandle : Obligations.CommandNeedsOpenHandle := by
  unfold Obligations.CommandNeedsOpenHandle
  intro i s hi hp hs
  exact ⟨_, exec_command_of_not_opened hi hp hs, completed_raise_latch .notOpen _ _ _ s, by simp⟩

/-! ## A handle that is not new -/

/-- OPEN is not accepted on a handle that is not new (43_handle.md R195). -/
theorem beginOpen_of_not_closedNew {s : State} (hs : s.handle.hs ≠ .closedNew) (v : Bool) :
    beginOpen v s = .refused .openWhenNotNew := by
  rw [beginOpen, if_neg hs]

/-- An operation an idle block refuses to accept is refused. -/
theorem runOperation_refused {accept : State → Host.Outcome State Fault Refusal} {s : State} {r : Refusal}
    (hp : s.phase = .idle) (h : accept s = .refused r) : runOperation accept s = .refused r := by
  rw [runOperation_idle hp, h, andThen_refused]

/-- An idle block takes a reset the host presents (70_reset_and_hazards.md R250). -/
theorem step_idle_reset {s : State} {rest : List HostEvent} (hp : s.phase = .idle) (hs : s.hostIn = .reset :: rest) :
    step s = .next (resetBlock s.dropHost) := by
  simp only [step, hp, hs, ↓reduceIte]

/-- Settles O17: OPEN is refused at its acceptance, and the handle registers after a reset are those of the reset
state. -/
theorem openRefusedWhenNotNew : Obligations.OpenRefusedWhenNotNew := by
  unfold Obligations.OpenRefusedWhenNotNew
  constructor
  · intro v s hp hs
    rw [exec_eq]
    exact runOperation_refused hp (beginOpen_of_not_closedNew hs v)
  · intro s rest hp hs
    exact ⟨_, step_idle_reset hp hs, rfl⟩

end Sys2Proof.Machine
end

section
/-! Proofs about the request frames: ENCODE builds the frames of the catalogue, and each has one meaning
(30_encoding.md R88, 40_codec.md R112 to R115). -/

namespace Sys2Proof.Machine

/-! ## ENCODE and DECODE on any frame -/

/-- A valid frame with the two fixed bytes is what ENCODE builds of its other fields (40_codec.md R112). -/
theorem codecEncode_of_valid {f : Frame} {pl : List Byte} (h0 : f[0] = 0xFF) (h1 : f[1] = 0x01) (hvalid : Valid f)
    (hlen : pl.length ≤ 5) (hpl : (framePayload f).toList = (List.range 5).map (paddedByte pl pl.length)) :
    codecEncode f[2] pl pl.length = some f := by
  rw [codecEncode_of_le hlen]
  have hbytes : [f[3], f[4], f[5], f[6], f[7]] = (List.range 5).map (paddedByte pl pl.length) := hpl
  simp only [List.range_succ, List.range_zero, List.nil_append, List.cons_append, List.map_cons, List.map_nil,
    List.cons.injEq, and_true] at hbytes
  obtain ⟨h3, h4, h5, h6, h7⟩ := hbytes
  rw [← h0, ← h1, ← h3, ← h4, ← h5, ← h6, ← h7]
  have hf : f.set 8 0x00 = #v[f[0], f[1], f[2], f[3], f[4], f[5], f[6], f[7], 0x00] := by
    apply Vector.toList_inj.mp
    simp [frame_toList]
  rw [← hf, checksum_set_eight, hvalid]
  simp

/-- Settles O3: the frame `codecEncode_spec` speaks of has the two fixed bytes, as ENCODE writes them. -/
theorem encodeBuildsFrame : Obligations.EncodeBuildsFrame := by
  unfold Obligations.EncodeBuildsFrame
  intro cmd pl
  constructor
  · intro h
    obtain ⟨f, hencode, hvalid, hcmd, hpayload⟩ := codecEncode_spec cmd h
    have hf := hencode
    rw [codecEncode_of_le h, Option.some_inj] at hf
    exact ⟨f, hencode, by rw [← hf]; rfl, by rw [← hf]; rfl, hcmd, hpayload, hvalid.symm⟩
  · intro h
    rw [codecEncode, if_pos h]

/-- Settles O4: the two outcomes of DECODE, and neither the checksum nor a field it returns reads byte 0. -/
theorem decodeTestsOnlyTheChecksum : Obligations.DecodeTestsOnlyTheChecksum := by
  unfold Obligations.DecodeTestsOnlyTheChecksum
  refine ⟨fun f h => codecDecode_valid h, fun f h => codecDecode_invalid h, fun f v => ?_⟩
  simp [codecDecode, framePayload]

/-! ## The catalogue -/

/-- Settles O11: the seven entries, one by one. -/
theorem catalogueFramesAreEncoded : Obligations.CatalogueFramesAreEncoded := by
  unfold Obligations.CatalogueFramesAreEncoded
  intro i r h
  cases i <;> cases h <;> decide

/-- The exchange of a command is its entry in the catalogue. -/
theorem exchangeOf_command {i : Instr} (h : i.isCommand = true) : exchangeOf i = some (reqOf i) := by
  obtain ⟨r, hr⟩ := Option.isSome_iff_exists.mp h
  simp [reqOf, hr]

/-- What the write row encodes for a command is the frame the table gives it (30_encoding.md R88). -/
theorem codecEncode_reqOf {i : Instr} (h : i.isCommand = true) :
    codecEncode (reqOf i).cmd (reqOf i).payload (reqOf i).payload.length = requestFrame i :=
  (catalogueFramesAreEncoded i _ (exchangeOf_command h)).1

/-- Every command has the request frame `wireFrame` names. -/
theorem requestFrame_command {i : Instr} (h : i.isCommand = true) : requestFrame i = some (wireFrame i) := by
  have hwf := (catalogueFramesAreEncoded i _ (exchangeOf_command h)).2
  have hlen : (reqOf i).payload.length ≤ 5 := by simp [ExchangeReq.wf] at hwf; exact hwf.1
  have hframe := codecEncode_reqOf h
  rw [codecEncode_of_le hlen] at hframe
  rw [wireFrame, ← hframe, Option.getD_some]

/-- Every exchange an operation may make is the catalogue's entry of a command. -/
theorem exchangesOf_catalogue {o : HostOp} {r : ExchangeReq} (h : r ∈ exchangesOf o) :
    ∃ i : Instr, i.isCommand = true ∧ reqOf i = r := by
  cases o <;> simp only [exchangesOf, List.mem_cons, List.not_mem_nil, or_false] at h
  case openOp => exact ⟨.getVersion, rfl, h.symm⟩
  case readCo2 => exact ⟨.readCo2, rfl, h.symm⟩
  case readTemp => exact ⟨.readTemp, rfl, h.symm⟩
  case setAbc =>
    rcases h with rfl | rfl
    · exact ⟨.setAbcOn, rfl, rfl⟩
    · exact ⟨.setAbcOff, rfl, rfl⟩
  case getAbc => exact ⟨.getAbc, rfl, h.symm⟩
  case zeroCal => exact ⟨.zeroCal, rfl, h.symm⟩
  case getVersion => exact ⟨.getVersion, rfl, h.symm⟩

/-- A command's frame is one of the seven. -/
theorem wireFrame_mem_catalogueFrames {i : Instr} (h : i.isCommand = true) : wireFrame i ∈ catalogueFrames := by
  refine List.mem_filterMap.mpr ⟨i, ?_, requestFrame_command h⟩
  cases i <;> simp [Instr.isCommand, exchangeOf] at h ⊢

/-- Latches with the operands of an exchange of the operation encode to one of the seven request frames. -/
theorem codecEncode_of_agrees {l : Latches} (h : l.agrees) :
    ∃ f ∈ catalogueFrames, codecEncode l.cmd l.pl l.len = some f := by
  obtain ⟨r, hr, hcmd, hpl, hlen, -⟩ := h
  obtain ⟨i, hi, rfl⟩ := exchangesOf_catalogue hr
  refine ⟨wireFrame i, wireFrame_mem_catalogueFrames hi, ?_⟩
  rw [hcmd, hpl, hlen, codecEncode_reqOf hi, requestFrame_command hi]

/-! ## Decoding -/

/-- The command byte and the payload select the instruction that has them in the catalogue. -/
theorem decodeCommand_ok {cmd p0 p1 p2 p3 p4 : Byte} {i : Instr} (h : decodeCommand cmd p0 p1 p2 p3 p4 = .ok i) :
    ∃ r, exchangeOf i = some r ∧ cmd = r.cmd ∧
      [p0, p1, p2, p3, p4] = (List.range 5).map (paddedByte r.payload r.payload.length) := by
  simp only [decodeCommand, ne_eq, ite_not] at h
  split_ifs at h with hpad
  all_goals cases h
  all_goals
    obtain ⟨rfl, rfl, rfl, rfl⟩ := hpad
    subst_vars
    exact ⟨_, rfl, rfl, rfl⟩

/-- Nine bytes that decode to an instruction are the frame the table gives it: valid, with the fixed bytes, and with the
fields of the catalogue's entry. -/
theorem requestFrame_of_decodeFrame {f : Frame} {i : Instr} (h : decodeFrame f = .ok i) : requestFrame i = some f := by
  simp only [decodeFrame, ne_eq, ite_not] at h
  split_ifs at h with h0 h1 hvalid
  obtain ⟨r, hr, hcmd, hpl⟩ := decodeCommand_ok h
  obtain ⟨hencode, hwf⟩ := catalogueFramesAreEncoded i r hr
  have hlen : r.payload.length ≤ 5 := by simp [ExchangeReq.wf] at hwf; exact hwf.1
  rw [← hencode, ← hcmd]
  exact codecEncode_of_valid h0 h1 hvalid hlen hpl

/-- Settles O7: one direction is the inversion of the decoder, the other the table's seven frames. -/
theorem frameHasOneMeaning : Obligations.FrameHasOneMeaning := by
  unfold Obligations.FrameHasOneMeaning
  intro f i
  constructor
  · exact requestFrame_of_decodeFrame
  · intro h
    cases i <;> cases h <;> decide

/-! ## Bytes and host words -/

/-- A frame's bytes decode as the frame. -/
theorem decode_toList (f : Frame) : decode f.toList = decodeFrame f := by
  have hf : f = #v[f[0], f[1], f[2], f[3], f[4], f[5], f[6], f[7], f[8]] := Vector.toList_inj.mp (frame_toList f)
  rw [frame_toList, decode, ← hf]

/-- Settles O8: a command's bytes are its frame, those of OPEN and CLOSE their host word. -/
theorem decodeEncode : Obligations.DecodeEncode := by
  unfold Obligations.DecodeEncode
  intro i _
  refine ⟨?bytes, ?request⟩
  case bytes =>
    unfold encode
    split
    · next f hf => rw [decode_toList, frameHasOneMeaning f i |>.mpr hf]
    · cases i with
      | openHandle v => exact (Laws.HostWord.openHandle v).2.2
      | closeHandle => exact Laws.HostWord.closeHandle.2.2
      | _ => next hnone => cases hnone
  case request =>
    cases i with
    | openHandle v => exact (Laws.HostWord.openHandle v).2.1
    | _ => rfl

/-- Settles O10: each word evaluates in the decoder. -/
theorem wordsDecode : Obligations.WordsDecode := by
  unfold Obligations.WordsDecode
  decide

end Sys2Proof.Machine
end

section
/-! What a row does besides its channel call, told once for all rows: the frame of the block's own moves, the calls each
row makes, and the one completion it may signal. -/

namespace Sys2Proof.Machine

/-! ## The block's own moves -/

/-- What the block does by itself once the channel has answered: no call, no parameter, nothing of the host's port, no
latch (10_state.md R31); and a completion is signalled exactly when the block becomes idle (10_state.md R33). -/
structure Internal (s t : State) : Prop where
  calls : t.calls = s.calls
  chan : t.chan = s.chan
  script : t.script = s.script
  cfg : t.cfg = s.cfg
  hostIn : t.hostIn = s.hostIn
  cur : t.cur = s.cur
  done : t.done = s.done + if t.phase = .idle then 1 else 0

theorem internal_raise (e : OpError) (s : State) : Internal s (raise e s) := by constructor <;> rfl

theorem internal_complete (s : State) : Internal s (complete s) := by constructor <;> rfl

theorem internal_toPhase {p : Phase} (hp : p ≠ .idle) (s : State) : Internal s (toPhase p s) := by
  constructor <;> simp [hp]

theorem internal_beginRead (s : State) : Internal s (beginRead s) := by constructor <;> rfl

theorem internal_accumulate {s : State} (hp : s.phase ≠ .idle) (d : List Byte) : Internal s (accumulate d s) := by
  constructor <;> simp [hp]

theorem internal_probeNext (s : State) : Internal s (probeNext s) := by
  rcases probeNext_cases s with ⟨-, -, h⟩ | ⟨-, h⟩ <;> rw [h] <;> constructor <;> rfl

theorem internal_exchangeFailed (e : OpError) (s : State) : Internal s (exchangeFailed e s) := by
  rw [exchangeFailed_eq]
  split
  · exact internal_probeNext s
  · exact internal_raise e s

/-- The interpretation of a response is such a move too, and it is made before the outcome is acted on. -/
theorem internal_of_interpret {s t : State} (h : Internal (interpret s) t) : Internal s t := by
  have hk := kept_interpret s
  have hs : (interpret s).calls = s.calls ∧ (interpret s).chan = s.chan ∧ (interpret s).script = s.script ∧
      (interpret s).done = s.done := by
    unfold interpret
    cases s.cur.op <;> exact ⟨rfl, rfl, rfl, rfl⟩
  obtain ⟨hcalls, hchan, hscript, hdone⟩ := hs
  exact ⟨h.calls.trans hcalls, h.chan.trans hchan, h.script.trans hscript, h.cfg.trans hk.cfg,
    h.hostIn.trans hk.hostIn, h.cur.trans hk.cur, by rw [h.done, hdone]⟩

theorem internal_exchangeSucceeded (s : State) : Internal s (exchangeSucceeded s) := by
  rw [exchangeSucceeded_eq]
  split
  · exact internal_of_interpret (internal_probeNext _)
  · exact internal_of_interpret (internal_complete _)

theorem internal_exchangeWritten (s : State) : Internal s (exchangeWritten s) := by
  unfold exchangeWritten
  split
  · have h := internal_complete (clearResult s)
    exact ⟨h.calls, h.chan, h.script, h.cfg, h.hostIn, h.cur, h.done⟩
  · exact internal_beginRead s

/-! ## What a row has done -/

/-- The channel calls a row makes (10_state.md R38, 41_transceiver.md R143). -/
def RowCalls (s : State) (new : List ChCall) : Prop :=
  match s.phase with
  | .idle => new = []
  | .chOpen => ∃ ok, new = [.open ok]
  | .flush => new = [.flush]
  | .write => ∃ f n, codecEncode s.cur.cmd s.cur.pl s.cur.len = some f ∧ new = [.write f n]
  | .read => new = [] ∨ ∃ d, d.length ≤ 9 - s.frames.rxCnt ∧ new = [.read (9 - s.frames.rxCnt) d]
  | .decode => new = []
  | .chClose => new = [.close]

/-- What every row leaves alone, the calls it makes, and the completion it may signal. -/
structure RowDone (s t : State) : Prop where
  cfg : t.cfg = s.cfg
  hostIn : t.hostIn = s.hostIn
  cur : t.cur = s.cur
  done : t.done = s.done + if t.phase = .idle then 1 else 0
  calls : ∃ new, t.calls = s.calls ++ new ∧ RowCalls s new

/-- A row is a channel call, which leaves the registers alone, and then the block's own moves. -/
theorem RowDone.of_internal {s u t : State} {new : List ChCall} (h : Internal u t) (hcfg : u.cfg = s.cfg)
    (hhost : u.hostIn = s.hostIn) (hcur : u.cur = s.cur) (hdone : u.done = s.done) (hcalls : u.calls = s.calls ++ new)
    (hrow : RowCalls s new) : RowDone s t :=
  ⟨h.cfg.trans hcfg, h.hostIn.trans hhost, h.cur.trans hcur, by rw [h.done, hdone], new, h.calls.trans hcalls, hrow⟩

/-- Every row of a busy block is of this form. -/
theorem tick_rowDone {s t : State} (hb : s.phase ≠ .idle) (h : tick s = .next t) : RowDone s t := by
  cases hp : s.phase with
  | idle => exact absurd hp hb
  | chOpen =>
    obtain ⟨r, hr, rfl⟩ := tick_chOpen hp h
    obtain ⟨sc, d, hs⟩ := chOpen_next hr
    have hi : Internal r.2 (if r.1 then probeNext (openRegs r.2) else raise .channelOpenError r.2) := by
      split
      · have h := internal_probeNext (openRegs r.2)
        exact ⟨h.calls, h.chan, h.script, h.cfg, h.hostIn, h.cur, h.done⟩
      · exact internal_raise _ _
    rw [hs] at hi ⊢
    exact .of_internal hi rfl rfl rfl rfl rfl (by simp [RowCalls, hp])
  | flush =>
    obtain ⟨u, hu, rfl⟩ := tick_flush hp h
    have hi := internal_toPhase (p := .write) (by decide) u
    obtain ⟨-, sc, d, e, rfl⟩ := chFlush_next hu
    exact .of_internal hi rfl rfl rfl rfl rfl (by simp [RowCalls, hp])
  | write =>
    obtain ⟨f, r, hf, hr, rfl⟩ := tick_write hp h
    obtain ⟨-, -, sc, d, e, hs⟩ := chWrite_next hr
    have hi : Internal r.2 (if r.1 < 9 then exchangeFailed .writeError r.2 else exchangeWritten r.2) := by
      split
      · exact internal_exchangeFailed _ _
      · exact internal_exchangeWritten _
    rw [hs] at hi ⊢
    exact .of_internal hi rfl rfl rfl rfl rfl (by simp [RowCalls, hp, hf])
  | read =>
    rcases tick_read hp h with ⟨-, -, r, hr, rfl⟩ | ⟨-, -, rfl⟩ | ⟨-, rfl⟩
    · obtain ⟨-, hlen, sc, d, e, hs, -⟩ := chRead_next hr
      have hi : Internal r.2 (accumulate r.1 r.2) := internal_accumulate (by rw [hs]; exact hb) r.1
      rw [hs] at hi ⊢
      exact .of_internal hi rfl rfl rfl rfl rfl (by simp [RowCalls, hp, hlen])
    · exact .of_internal (new := []) (internal_exchangeFailed _ _) rfl rfl rfl rfl (by simp) (by simp [RowCalls, hp])
    · exact .of_internal (new := []) (internal_toPhase (p := .decode) (by decide) s) rfl rfl rfl rfl (by simp)
        (by simp [RowCalls, hp])
  | decode =>
    rcases tick_decode hp h with ⟨-, rfl⟩ | ⟨-, rfl⟩
    · exact .of_internal (new := []) (internal_exchangeSucceeded _) rfl rfl rfl rfl (by simp) (by simp [RowCalls, hp])
    · exact .of_internal (new := []) (internal_exchangeFailed _ _) rfl rfl rfl rfl (by simp) (by simp [RowCalls, hp])
  | chClose =>
    obtain ⟨u, hu, rfl⟩ := tick_chClose hp h
    obtain ⟨-, sc, d, rfl⟩ := chClose_next hu
    exact .of_internal (internal_complete _) rfl rfl rfl rfl rfl (by simp [RowCalls, hp])

theorem tick_kept {s t : State} (hb : s.phase ≠ .idle) (h : tick s = .next t) : Kept s t := by
  obtain ⟨hcfg, hhost, hcur, -, new, hnew, -⟩ := tick_rowDone hb h
  exact ⟨hcfg, hhost, hcur, new, hnew⟩

theorem Rows.kept {s t : State} (h : Rows s t) : Kept s t := by
  induction h with
  | refl s => exact .refl s
  | row hb hrow _ ih => exact (tick_kept hb hrow).trans ih

/-- A busy block steps by a row. -/
theorem step_busy {s : State} (hb : s.phase ≠ .idle) : step s = tick s := by rw [step, if_neg hb]

/-- Settles O15: every row keeps the host port and all latches. -/
theorem heldWhileBusy : Obligations.HeldWhileBusy := by
  unfold Obligations.HeldWhileBusy
  intro s t hb h
  rw [step_busy hb] at h
  have hrow := tick_rowDone hb h
  exact ⟨hrow.hostIn, fun _ => hrow.cur⟩

/-- Settles O51: the streams are views of the record of calls, and each row's calls are those of `RowCalls`. -/
theorem streams : Obligations.Streams := by
  unfold Obligations.Streams
  intro s t hb h
  rw [step_busy hb] at h
  obtain ⟨new, hcalls, hrow⟩ := (tick_rowDone hb h).calls
  refine ⟨fun hp => ?flush, fun hp => ?write, fun hp => ?read, fun hp => ?others⟩
  case flush =>
    simp only [RowCalls, hp] at hrow
    subst hrow
    exact ⟨rxs_of_call hcalls, txs_of_call hcalls nofun⟩
  case write =>
    simp only [RowCalls, hp] at hrow
    obtain ⟨f, n, hf, rfl⟩ := hrow
    exact ⟨rxs_of_call hcalls, f, hf, txs_of_write hcalls⟩
  case read =>
    simp only [RowCalls, hp] at hrow
    rcases hrow with rfl | ⟨d, hd, rfl⟩
    · rw [List.append_nil] at hcalls
      exact ⟨⟨[], by rw [rxs_of_calls hcalls, List.append_nil], Nat.zero_le _⟩, txs_of_calls hcalls⟩
    · exact ⟨⟨d, rxs_of_call hcalls, hd⟩, txs_of_call hcalls nofun⟩
  case others =>
    rcases hp with hp | hp | hp <;> simp only [RowCalls, hp] at hrow
    · obtain ⟨ok, rfl⟩ := hrow
      exact ⟨rxs_of_call hcalls, txs_of_call hcalls nofun⟩
    · subst hrow
      rw [List.append_nil] at hcalls
      exact ⟨rxs_of_calls hcalls, txs_of_calls hcalls⟩
    · subst hrow
      exact ⟨rxs_of_call hcalls, txs_of_call hcalls nofun⟩

/-! ## Whole operations and steps -/

/-- An operation that answers next: the operation in progress, then the acceptance and its rows (43_handle.md R196). -/
theorem exec_next {i : Instr} {s t : State} (h : exec i s = .next t) :
    ∃ s1 u, runToIdle s = .next s1 ∧ acceptOf i s1 = .next u ∧ Rows u t ∧ t.phase = .idle := by
  rw [exec_eq, runOperation] at h
  obtain ⟨s1, h1, h⟩ := andThen_eq_next.mp h
  obtain ⟨u, hu, h⟩ := andThen_eq_next.mp h
  exact ⟨s1, u, h1, hu, runToIdle_next h⟩

/-- An operation on an idle block that answers next: the acceptance and its rows. -/
theorem exec_next_of_idle {i : Instr} {s t : State} (hp : s.phase = .idle) (h : exec i s = .next t) :
    ∃ u, acceptOf i s = .next u ∧ Rows u t ∧ t.phase = .idle := by
  obtain ⟨s1, u, h1, hu⟩ := exec_next h
  rw [runToIdle_idle hp] at h1
  cases h1
  exact ⟨u, hu⟩

/-- An operation on an idle block keeps the parameters and the host port, and adds to the record of calls. -/
theorem exec_grows {i : Instr} {s t : State} (hp : s.phase = .idle) (h : exec i s = .next t) :
    t.cfg = s.cfg ∧ t.hostIn = s.hostIn ∧ s.calls <+: t.calls := by
  obtain ⟨u, hu, hrows, -⟩ := exec_next_of_idle hp h
  obtain ⟨hcfg, hhost, -, hcalls, -⟩ := acceptOf_keeps hu
  obtain ⟨new, hnew⟩ := hrows.kept.calls
  exact ⟨hrows.kept.cfg.trans hcfg, hrows.kept.hostIn.trans hhost, new, by rw [hnew, hcalls]⟩

/-- A step of an idle block that answers next: nothing presented, a reset, or the operation presented. -/
theorem step_idle_next {s t : State} (hp : s.phase = .idle) (h : step s = .next t) :
    (s.hostIn = [] ∧ t = s) ∨ (∃ rest, s.hostIn = .reset :: rest ∧ t = resetBlock s.dropHost) ∨
      ∃ i, exec i s.dropHost = .next t := by
  rw [step, if_pos hp] at h
  split at h
  · next hnone => exact .inl ⟨hnone, by cases h; rfl⟩
  · next rest hreset => exact .inr (.inl ⟨rest, hreset, by cases h; rfl⟩)
  · next r rest hreq =>
    split at h
    · next i hi => exact .inr (.inr ⟨i, h⟩)
    · cases h

/-- Settles O45: rows, operations and a reset all keep the parameters and only add to the record. -/
theorem stepsKeepParameters : Obligations.StepsKeepParameters := by
  unfold Obligations.StepsKeepParameters
  intro s t h
  by_cases hp : s.phase = .idle
  · rcases step_idle_next hp h with ⟨-, rfl⟩ | ⟨rest, -, rfl⟩ | ⟨i, hi⟩
    · exact ⟨rfl, List.prefix_rfl⟩
    · exact ⟨rfl, List.prefix_rfl⟩
    · obtain ⟨hcfg, -, hcalls⟩ := exec_grows (s := s.dropHost) hp hi
      exact ⟨hcfg, hcalls⟩
  · rw [step_busy hp] at h
    obtain ⟨hcfg, -, -, -, new, hnew, -⟩ := tick_rowDone hp h
    exact ⟨hcfg, new, hnew.symm⟩

/-! ## One completion -/

/-- Counted from `n` completions: one more when the block is idle, none while it is busy. -/
def SignalledOnce (n : Nat) (s : State) : Prop := s.done = n + if s.phase = .idle then 1 else 0

/-- An operation accepted by an idle block is busy, or already completed with its one signal. -/
theorem acceptOf_signalledOnce {i : Instr} {s u : State} (h : acceptOf i s = .next u) :
    SignalledOnce s.done u := by
  cases i <;> simp only [acceptOf, beginCommand, beginOpen, beginClose] at h <;> split at h <;> cases h <;> rfl

/-- The rows of an operation signal once, at its end. -/
theorem Rows.signalledOnce {s t : State} {n : Nat} (h : Rows s t) (hs : SignalledOnce n s) : SignalledOnce n t := by
  refine Rows.induct (P := SignalledOnce n) (fun hb hx hrow => ?_) h hs
  have hdone := (tick_rowDone hb hrow).done
  rw [SignalledOnce, if_neg hb] at hx
  rw [SignalledOnce, hdone, hx, Nat.add_zero]

/-- Settles O38: an operation that answers next has run to its end, and its acceptance and rows signal once. -/
theorem operationsEndIdle : Obligations.OperationsEndIdle := by
  unfold Obligations.OperationsEndIdle
  intro i s t h
  constructor
  · obtain ⟨-, -, -, -, -, ht⟩ := exec_next h
    exact ht
  · intro hp
    obtain ⟨u, hu, hrows, ht⟩ := exec_next_of_idle hp h
    have hdone := hrows.signalledOnce (acceptOf_signalledOnce hu)
    rwa [SignalledOnce, if_pos ht] at hdone

end Sys2Proof.Machine
end

section
/-! Proofs about the invariant: it is the conjunction of three parts, each kept by every row, acceptance and reset; and
what follows for the steps of a machine that meets it (10_state.md, 43_handle.md R190). -/

namespace Sys2Proof.Machine

/-! ## The three parts -/

/-- Phase, handle state, latches and channel agree (43_handle.md R190, 10_state.md R40). -/
structure Linked (s : State) : Prop where
  phase : PhaseAgrees s
  established : s.handle.hs = .opened → s.chan.established = true

/-- The registers are within the ranges of 10_state.md, and the reserved error is not in `status`. -/
structure InRange (s : State) : Prop where
  rxCnt : s.frames.rxCnt ≤ 9
  att : s.frames.att ≤ s.cfg.retryCeiling
  probeCnt : s.frames.probeCnt ≤ s.cfg.openVersionTries
  resLen : s.raw.resLen ≤ 5
  tempC : -40 ≤ s.typed.tempC.toInt ∧ s.typed.tempC.toInt ≤ 215
  status : s.status ≠ .unexpectedResponse

/-- Only request frames of the catalogue are written, and nothing is drained (30_encoding.md R88, 20_memory.md R63). -/
def CleanCalls (cs : List ChCall) : Prop :=
  (∀ f n, ChCall.write f n ∈ cs → f ∈ catalogueFrames) ∧ ChCall.drain ∉ cs

theorem inv_iff {s : State} : s.Inv ↔ Linked s ∧ InRange s ∧ CleanCalls s.calls :=
  ⟨fun h => ⟨⟨h.phase, h.established⟩, ⟨h.rxCnt, h.att, h.probeCnt, h.resLen, h.tempC, h.status⟩, h.frames, h.noDrain⟩,
    fun ⟨hl, hr, hc⟩ => ⟨hr.rxCnt, hr.att, hr.probeCnt, hr.resLen, hr.tempC, hr.status, hl.established, hl.phase, hc.1,
      hc.2⟩⟩

/-! ## Kinds of instructions -/

/-- An instruction is OPEN, CLOSE or a command. -/
theorem instr_kinds (i : Instr) : (∃ v, i = .openHandle v) ∨ i = .closeHandle ∨ i.isCommand = true := by
  cases i with
  | openHandle v => exact .inl ⟨v, rfl⟩
  | closeHandle => exact .inr (.inl rfl)
  | _ => exact .inr (.inr rfl)

/-- The exchange of a command is one its operation may make. -/
theorem reqOf_mem_exchangesOf {i : Instr} (h : i.isCommand = true) : reqOf i ∈ exchangesOf (opOf i) := by
  cases i <;> simp [Instr.isCommand, exchangeOf, reqOf, exchangesOf, opOf] at h ⊢

/-- An operation latched with an exchange it may make has latches that agree. -/
theorem agrees_accept (l : Latches) {o : HostOp} {r : ExchangeReq} (h : r ∈ exchangesOf o) (a : Option Bool) :
    (l.accept o a (some r)).agrees :=
  ⟨r, h, rfl, rfl, rfl, rfl⟩

/-! ## Phase, handle state and channel -/

theorem phaseAgrees_of_idle {s : State} (h : s.phase = .idle) : PhaseAgrees s := by simp [PhaseAgrees, h]

/-- During an exchange the handle is open and the latches hold the exchange's operands. -/
theorem phaseAgrees_of_inExchange {s : State} (h : s.phase.inExchange = true) :
    PhaseAgrees s ↔ s.handle.hs = .opened ∧ s.cur.agrees := by
  cases hp : s.phase <;> simp [PhaseAgrees, hp, Phase.inExchange] at h ⊢

theorem Linked.of_idle {s : State} (h : s.phase = .idle)
    (he : s.handle.hs = .opened → s.chan.established = true) : Linked s :=
  ⟨phaseAgrees_of_idle h, he⟩

/-- With the handle open and its channel established, idle and the phases of an exchange of the latches are linked. -/
theorem Linked.of_opened {s : State} (hp : s.phase = .idle ∨ s.phase.inExchange = true) (ho : s.handle.hs = .opened)
    (he : s.chan.established = true) (ha : s.cur.agrees) : Linked s :=
  ⟨hp.elim phaseAgrees_of_idle fun hx => (phaseAgrees_of_inExchange hx).mpr ⟨ho, ha⟩, fun _ => he⟩

@[simp] theorem probeNext_handle (s : State) : (probeNext s).handle = s.handle := by unfold probeNext; split <;> rfl

@[simp] theorem exchangeFailed_handle (e : OpError) (s : State) : (exchangeFailed e s).handle = s.handle := by
  rw [exchangeFailed_eq]; split <;> simp

@[simp] theorem interpret_hs (s : State) : (interpret s).handle.hs = s.handle.hs := by
  unfold interpret; cases s.cur.op <;> rfl

@[simp] theorem exchangeSucceeded_hs (s : State) : (exchangeSucceeded s).handle.hs = s.handle.hs := by
  rw [exchangeSucceeded_eq]; split <;> simp

/-- The probe goes on with another exchange or OPEN completes. -/
theorem probeNext_phase (s : State) : (probeNext s).phase = .idle ∨ (probeNext s).phase.inExchange = true := by
  unfold probeNext; split
  · exact .inr rfl
  · exact .inl rfl

theorem exchangeFailed_phase (e : OpError) (s : State) :
    (exchangeFailed e s).phase = .idle ∨ (exchangeFailed e s).phase.inExchange = true := by
  rw [exchangeFailed_eq]; split
  · exact probeNext_phase s
  · exact .inl rfl

theorem exchangeSucceeded_phase (s : State) :
    (exchangeSucceeded s).phase = .idle ∨ (exchangeSucceeded s).phase.inExchange = true := by
  rw [exchangeSucceeded_eq]; split
  · exact probeNext_phase _
  · exact .inl rfl

/-- Where an exchange ends on an open handle, its end is linked again. -/
theorem Linked.of_internal {x t : State} (h : Internal x t) (hp : t.phase = .idle ∨ t.phase.inExchange = true)
    (hhs : t.handle.hs = x.handle.hs) (ho : x.handle.hs = .opened) (he : x.chan.established = true)
    (ha : x.cur.agrees) : Linked t :=
  .of_opened hp (hhs.trans ho) (by rw [h.chan, he]) (by rw [h.cur]; exact ha)

/-- A row of an exchange keeps the link. -/
theorem Linked.exchangeRow {s t : State} (hs : Linked s) (hp : s.phase.inExchange = true) (h : tick s = .next t) :
    Linked t := by
  obtain ⟨ho, ha⟩ := (phaseAgrees_of_inExchange hp).mp hs.phase
  obtain ⟨x, hx, hend⟩ := tick_exchange hp h
  have hox : x.handle.hs = .opened := by rw [hx.handle, ho]
  have hex : x.chan.established = true := by rw [hx.established, hs.established ho]
  have hax : x.cur.agrees := by rw [hx.cur]; exact ha
  rcases hend with ⟨rfl, ht⟩ | ⟨e, -, rfl⟩ | rfl | ⟨rfl, -⟩
  · exact .of_opened (.inr ht) hox hex hax
  · exact .of_internal (internal_exchangeFailed e x) (exchangeFailed_phase e x) (by simp) hox hex hax
  · exact .of_internal (internal_exchangeSucceeded x) (exchangeSucceeded_phase x) (by simp) hox hex hax
  · exact .of_internal (internal_complete x) (.inl rfl) rfl hox hex hax

/-- Every row keeps the link. -/
theorem Linked.row {s t : State} (hb : s.phase ≠ .idle) (hs : Linked s) (h : tick s = .next t) : Linked t := by
  cases hp : s.phase with
  | idle => exact absurd hp hb
  | chOpen =>
    obtain ⟨hn, -, ha⟩ : s.handle.hs = .closedNew ∧ s.cur.op = .openOp ∧ s.cur.agrees := by
      simpa [PhaseAgrees, hp] using hs.phase
    obtain ⟨r, hr, rfl⟩ := tick_chOpen hp h
    obtain ⟨sc, d, hs'⟩ := chOpen_next hr
    split
    · next hok =>
      exact .of_internal (internal_probeNext _) (probeNext_phase _) (by simp) rfl (by simp [hs', hok])
        (by rw [hs']; exact ha)
    · exact .of_idle rfl (by rw [hs']; simp [hn])
  | chClose =>
    obtain ⟨u, -, rfl⟩ := tick_chClose hp h
    exact .of_idle rfl nofun
  | flush | write | read | decode => exact hs.exchangeRow (by rw [hp]; rfl) h

/-- Every acceptance makes the link. -/
theorem Linked.accept {i : Instr} {s u : State} (hs : Linked s) (h : acceptOf i s = .next u) : Linked u := by
  rcases instr_kinds i with ⟨v, rfl⟩ | rfl | hi
  · simp only [acceptOf, beginOpen] at h
    split at h <;> cases h
    next hn => exact ⟨⟨hn, rfl, agrees_accept _ (by simp [exchangesOf]) _⟩, hs.established⟩
  · simp only [acceptOf, beginClose] at h
    split at h <;> cases h
    · exact .of_idle rfl hs.established
    · exact .of_idle rfl hs.established
    · next ho => exact ⟨⟨ho, rfl⟩, hs.established⟩
  · rw [acceptOf_command hi, beginCommand] at h
    split at h <;> cases h
    · next ho => exact .of_opened (.inr rfl) ho (hs.established ho) (agrees_accept _ (reqOf_mem_exchangesOf hi) _)
    · exact .of_idle rfl hs.established

/-! ## Ranges -/

/-- Nine bits hold every difference of a byte and 40 (42_commands.md R162, R168 c). -/
theorem tempOfByte_toInt (b : Byte) : (tempOfByte b).toInt = (b.toNat : Int) - 40 := by
  have hb : b.toNat < 256 := b.isLt
  rw [tempOfByte, BitVec.toInt_ofInt]
  exact Int.bmod_eq_of_le (by omega) (by omega)

/-- The temperature of any byte is within -40 to 215 (42_commands.md R162). -/
theorem tempOfByte_range (b : Byte) : -40 ≤ (tempOfByte b).toInt ∧ (tempOfByte b).toInt ≤ 215 := by
  have hb : b.toNat < 256 := b.isLt
  rw [tempOfByte_toInt]
  omega

/-- After an error every ranged register holds a free value within its range (logs 13, 15 and 30). -/
theorem inRange_raise {e : OpError} (he : e.status ≠ .unexpectedResponse) (s : State) : InRange (raise e s) :=
  ⟨Nat.min_le_right _ _, Nat.min_le_right _ _, Nat.min_le_right _ _, Nat.min_le_right _ _, tempOfByte_range _, he⟩

/-- A completion with OK keeps the results. -/
theorem inRange_complete {s : State} (hr : s.raw.resLen ≤ 5)
    (ht : -40 ≤ s.typed.tempC.toInt ∧ s.typed.tempC.toInt ≤ 215) : InRange (complete s) :=
  ⟨Nat.min_le_right _ _, Nat.min_le_right _ _, Nat.min_le_right _ _, hr, ht, nofun⟩

theorem InRange.probeNext {s : State} (h : InRange s) : InRange (probeNext s) := by
  rcases probeNext_cases s with ⟨hp, -, he⟩ | ⟨-, he⟩ <;> rw [he]
  · exact ⟨h.rxCnt, h.att, hp, h.resLen, h.tempC, h.status⟩
  · exact inRange_complete (Nat.min_le_right _ _) h.tempC

theorem InRange.interpret {s : State} (h : InRange s) : InRange (interpret s) := by
  have ht : -40 ≤ (readCo2Of s.cfg s.raw.res s.typed).tempC.toInt ∧
      (readCo2Of s.cfg s.raw.res s.typed).tempC.toInt ≤ 215 := by
    unfold readCo2Of
    split
    · exact tempOfByte_range _
    · exact h.tempC
  unfold Machine.interpret
  cases s.cur.op
  case readCo2 => exact ⟨h.rxCnt, h.att, h.probeCnt, h.resLen, ht, h.status⟩
  all_goals exact ⟨h.rxCnt, h.att, h.probeCnt, h.resLen, h.tempC, h.status⟩

/-- The errors of an exchange are not the reserved one (60_exceptions.md R217). -/
theorem OpError.ofExchange.status_ne {e : OpError} (h : e.ofExchange) : e.status ≠ .unexpectedResponse := by
  rcases h with rfl | rfl | ⟨m, rfl⟩ <;> nofun

theorem InRange.exchangeFailed {s : State} (h : InRange s) {e : OpError} (he : e.ofExchange) :
    InRange (exchangeFailed e s) := by
  rw [exchangeFailed_eq]
  split
  · exact h.probeNext
  · exact inRange_raise he.status_ne s

theorem InRange.exchangeSucceeded {s : State} (h : InRange s) : InRange (exchangeSucceeded s) := by
  rw [exchangeSucceeded_eq]
  split
  · exact h.interpret.probeNext
  · exact inRange_complete h.interpret.resLen h.interpret.tempC

theorem InRange.exchangeWritten {s : State} (h : InRange s) : InRange (exchangeWritten s) := by
  unfold Machine.exchangeWritten
  split
  · exact inRange_complete (Nat.zero_le _) h.tempC
  · exact ⟨Nat.zero_le _, Nat.zero_le _, h.probeCnt, h.resLen, h.tempC, h.status⟩

/-- A read call is charged at most one attempt (41_transceiver.md R134). -/
theorem charge_le_one (m : AttemptCounting) (k : Nat) : charge m k ≤ 1 := by
  unfold charge
  cases m with
  | allCalls => exact Nat.le_refl 1
  | zeroReturnsOnly => dsimp only; split <;> decide

/-- A read call that gives no more than is missing, made while budget is left, keeps the counters in range. -/
theorem InRange.accumulate {s : State} (h : InRange s) {d : List Byte} (hd : s.frames.rxCnt + d.length ≤ 9)
    (ha : s.frames.att < s.cfg.retryCeiling) : InRange (accumulate d s) := by
  have hcharge := charge_le_one s.cfg.attemptCounting d.length
  exact ⟨hd, by rw [accumulate_frames, accumulate_cfg]; dsimp only; omega, h.probeCnt, h.resLen, h.tempC, h.status⟩

/-- Every row keeps the ranges. -/
theorem InRange.row {s t : State} (hb : s.phase ≠ .idle) (hs : InRange s) (h : tick s = .next t) : InRange t := by
  obtain ⟨hrx, hatt, hprobe, hlen, htemp, hstatus⟩ := hs
  cases hp : s.phase with
  | idle => exact absurd hp hb
  | chOpen =>
    obtain ⟨r, hr, rfl⟩ := tick_chOpen hp h
    obtain ⟨sc, d, hs'⟩ := chOpen_next hr
    rw [hs']
    split
    · exact InRange.probeNext ⟨hrx, hatt, Nat.zero_le _, hlen, htemp, hstatus⟩
    · exact inRange_raise (by decide) _
  | flush =>
    obtain ⟨u, hu, rfl⟩ := tick_flush hp h
    obtain ⟨-, sc, d, e, rfl⟩ := chFlush_next hu
    exact ⟨hrx, hatt, hprobe, hlen, htemp, hstatus⟩
  | write =>
    obtain ⟨f, r, -, hr, rfl⟩ := tick_write hp h
    obtain ⟨-, -, sc, d, e, hs'⟩ := chWrite_next hr
    have hr2 : InRange r.2 := by rw [hs']; exact ⟨hrx, hatt, hprobe, hlen, htemp, hstatus⟩
    split
    · exact hr2.exchangeFailed (.inl rfl)
    · exact hr2.exchangeWritten
  | read =>
    rcases tick_read hp h with ⟨h9, ha, r, hr, rfl⟩ | ⟨-, -, rfl⟩ | ⟨-, rfl⟩
    · obtain ⟨-, hgot, sc, d, e, hs', -⟩ := chRead_next hr
      have hr2 : InRange r.2 := by rw [hs']; exact ⟨hrx, hatt, hprobe, hlen, htemp, hstatus⟩
      exact hr2.accumulate (by rw [hs']; dsimp only; omega) (by rw [hs']; exact ha)
    · exact InRange.exchangeFailed ⟨hrx, hatt, hprobe, hlen, htemp, hstatus⟩ (.inr (.inl rfl))
    · exact ⟨hrx, hatt, hprobe, hlen, htemp, hstatus⟩
  | decode =>
    rcases tick_decode hp h with ⟨-, rfl⟩ | ⟨-, rfl⟩
    · exact InRange.exchangeSucceeded ⟨hrx, hatt, hprobe, Nat.min_le_right _ _, htemp, hstatus⟩
    · exact InRange.exchangeFailed (s := storeMismatch _ s) ⟨hrx, hatt, hprobe, hlen, htemp, hstatus⟩
        (.inr (.inr ⟨_, rfl⟩))
  | chClose =>
    obtain ⟨u, hu, rfl⟩ := tick_chClose hp h
    obtain ⟨-, sc, d, rfl⟩ := chClose_next hu
    exact inRange_complete hlen htemp

/-- Every acceptance keeps the ranges. -/
theorem InRange.accept {i : Instr} {s u : State} (hs : InRange s) (h : acceptOf i s = .next u) : InRange u := by
  obtain ⟨hrx, hatt, hprobe, hlen, htemp, hstatus⟩ := hs
  rcases instr_kinds i with ⟨v, rfl⟩ | rfl | hi
  · simp only [acceptOf, beginOpen] at h
    split at h <;> cases h
    exact ⟨hrx, hatt, Nat.zero_le _, hlen, htemp, hstatus⟩
  · simp only [acceptOf, beginClose] at h
    split at h <;> cases h
    · exact inRange_raise (by decide) _
    · exact inRange_raise (by decide) _
    · exact ⟨hrx, hatt, hprobe, hlen, htemp, hstatus⟩
  · rw [acceptOf_command hi, beginCommand] at h
    split at h <;> cases h
    · exact ⟨hrx, hatt, hprobe, hlen, htemp, hstatus⟩
    · exact inRange_raise (by decide) _

/-! ## The record of calls -/

theorem CleanCalls.append {cs new : List ChCall} (h : CleanCalls cs) (h' : CleanCalls new) :
    CleanCalls (cs ++ new) := by
  refine ⟨fun f n hf => ?_, fun hd => ?_⟩
  · exact (List.mem_append.mp hf).elim (h.1 f n) (h'.1 f n)
  · exact (List.mem_append.mp hd).elim h.2 h'.2

/-- The calls of a row of a linked state are clean: only the write row writes, and it writes the latched exchange. -/
theorem RowCalls.clean {s : State} {new : List ChCall} (hl : Linked s) (h : RowCalls s new) : CleanCalls new := by
  cases hp : s.phase <;> simp only [RowCalls, hp] at h
  case write =>
    obtain ⟨-, ha⟩ := (phaseAgrees_of_inExchange (by rw [hp]; rfl)).mp hl.phase
    obtain ⟨f, hf, hencode⟩ := codecEncode_of_agrees ha
    obtain ⟨g, n, hg, rfl⟩ := h
    rw [hencode, Option.some_inj] at hg
    subst hg
    simpa [CleanCalls] using hf
  case chOpen => obtain ⟨ok, rfl⟩ := h; simp [CleanCalls]
  case read => rcases h with rfl | ⟨d, -, rfl⟩ <;> simp [CleanCalls]
  all_goals subst h; simp [CleanCalls]

/-! ## The invariant -/

/-- Every row keeps the invariant. -/
theorem State.Inv.row {s t : State} (hb : s.phase ≠ .idle) (hs : s.Inv) (h : tick s = .next t) : t.Inv := by
  obtain ⟨hlink, hrange, hclean⟩ := inv_iff.mp hs
  obtain ⟨new, hcalls, hrow⟩ := (tick_rowDone hb h).calls
  exact inv_iff.mpr ⟨hlink.row hb h, hrange.row hb h, by rw [hcalls]; exact hclean.append (hrow.clean hlink)⟩

/-- Every acceptance keeps the invariant. -/
theorem State.Inv.accept {i : Instr} {s u : State} (hs : s.Inv) (h : acceptOf i s = .next u) : u.Inv := by
  obtain ⟨hlink, hrange, hclean⟩ := inv_iff.mp hs
  obtain ⟨-, -, -, hcalls, -, -⟩ := acceptOf_keeps h
  exact inv_iff.mpr ⟨hlink.accept h, hrange.accept h, by rw [hcalls]; exact hclean⟩

/-- Every operation on an idle block keeps the invariant. -/
theorem State.Inv.exec {i : Instr} {s t : State} (hp : s.phase = .idle) (hs : s.Inv) (h : exec i s = .next t) :
    t.Inv := by
  obtain ⟨u, hu, hrows, -⟩ := exec_next_of_idle hp h
  exact Rows.induct State.Inv.row hrows (hs.accept hu)

theorem State.Inv.dropHost {s : State} (h : s.Inv) : s.dropHost.Inv :=
  ⟨h.rxCnt, h.att, h.probeCnt, h.resLen, h.tempC, h.status, h.established, h.phase, h.frames, h.noDrain⟩

/-- Settles O13: the machine at reset, register by register. -/
theorem resetMeetsInvariant : Obligations.ResetMeetsInvariant := by
  unfold Obligations.ResetMeetsInvariant
  exact ⟨Nat.zero_le _, Nat.zero_le _, Nat.zero_le _, Nat.zero_le _, by decide, nofun, nofun, trivial, nofun, nofun⟩

/-- The registers reset writes are in range and linked, whatever the parameters and the surroundings. -/
theorem State.Inv.reset {s : State} (h : s.Inv) : (resetBlock s).Inv :=
  ⟨Nat.zero_le _, Nat.zero_le _, Nat.zero_le _, Nat.zero_le _, resetMeetsInvariant.tempC, nofun, nofun, trivial,
    h.frames, h.noDrain⟩

/-- Settles O46: a busy step is a row; an idle one waits, resets the block or runs an operation. -/
theorem stepKeepsInvariant : Obligations.StepKeepsInvariant := by
  unfold Obligations.StepKeepsInvariant
  intro s t hs h
  by_cases hp : s.phase = .idle
  · rcases step_idle_next hp h with ⟨-, rfl⟩ | ⟨rest, -, rfl⟩ | ⟨i, hi⟩
    · exact hs
    · exact hs.dropHost.reset
    · exact State.Inv.exec (s := s.dropHost) hp hs.dropHost hi
  · rw [step_busy hp] at h
    exact hs.row hp h

end Sys2Proof.Machine
end

section
/-! How an exchange ends, whatever the channel answers: the calls it has made (41_transceiver.md R141), and the outcome
a command or OPEN's probe acts on. -/

namespace Sys2Proof.Machine

/-! ## One exchange -/

theorem Near.refl (s : State) : Near s s := by constructor <;> rfl

theorem Near.trans {s x y : State} (h : Near s x) (k : Near x y) : Near s y :=
  ⟨k.handle.trans h.handle, k.cur.trans h.cur, k.cfg.trans h.cfg, k.typed.trans h.typed,
    k.established.trans h.established, k.probeCnt.trans h.probeCnt, k.status.trans h.status⟩

/-- An exchange ends with one of its three errors or with success; a ZERO_CAL that awaits no response ends with success
after its write (42_commands.md R166). -/
def Ends (y t : State) : Prop := (∃ e : OpError, e.ofExchange ∧ t = exchangeFailed e y) ∨ t = exchangeSucceeded y

/-- The read calls of an exchange so far: their form, and that each is charged or brings a byte
(41_transceiver.md R134, R135). -/
structure ReadsSoFar (x : State) (reads : List ChCall) : Prop where
  each : ∀ k ∈ reads, ∃ m d, k = .read m d ∧ 1 ≤ m ∧ m ≤ 9 ∧ d.length ≤ m
  charged : x.cfg.attemptCounting = .allCalls → reads.length ≤ x.frames.att
  counted : reads.length ≤ x.frames.att + x.frames.rxCnt
  att : x.frames.att ≤ x.cfg.retryCeiling
  rxCnt : x.frames.rxCnt ≤ 9

/-- The calls an exchange of `q` has made when it stands in `x`. -/
def CallsSoFar (q : Frame) (x : State) (new : List ChCall) : Prop :=
  match x.phase with
  | .flush => new = []
  | .write => new = [.flush]
  | .read => ∃ reads, new = .flush :: .write q 9 :: reads ∧ ReadsSoFar x reads
  | .decode => ExchangeBudget x.cfg q new
  | .idle => False
  | .chOpen => False
  | .chClose => False

/-- `x` stands in the middle of an exchange of `q` that began in `s`. -/
structure Midway (q : Frame) (s x : State) : Prop where
  near : Near s x
  calls : ∃ new, x.calls = s.calls ++ new ∧ CallsSoFar q x new

/-- `y` stands where the exchange of `q` that began in `s` is over and its outcome not yet acted on. -/
structure Over (q : Frame) (s y : State) : Prop where
  near : Near s y
  calls : ∃ new, y.calls = s.calls ++ new ∧ ExchangeBudget s.cfg q new

/-- An exchange whose request was written short stays within its budget. -/
theorem exchangeBudget_write (c : Config) (q : Frame) {n : Nat} (hn : n ≤ 9) :
    ExchangeBudget c q [.flush, .write q n] :=
  ⟨n, [], rfl, hn, fun _ => rfl, nofun, fun _ => Nat.zero_le _, Nat.zero_le _⟩

/-- The reads so far are within the budget. -/
theorem ReadsSoFar.budget {x : State} {reads : List ChCall} (h : ReadsSoFar x reads) (q : Frame) :
    ExchangeBudget x.cfg q (.flush :: .write q 9 :: reads) := by
  obtain ⟨heach, hcharged, hcounted, hatt, hrx⟩ := h
  exact ⟨9, reads, rfl, Nat.le_refl 9, by omega, heach, fun hall => (hcharged hall).trans hatt, by omega⟩

/-- One more read call, made while bytes are missing and budget is left. -/
theorem ReadsSoFar.read {x t : State} {reads : List ChCall} {d : List Byte} (h : ReadsSoFar x reads)
    (h9 : x.frames.rxCnt < 9) (ha : x.frames.att < x.cfg.retryCeiling) (hd : d.length ≤ 9 - x.frames.rxCnt)
    (hcfg : t.cfg = x.cfg) (hatt : t.frames.att = x.frames.att + charge x.cfg.attemptCounting d.length)
    (hrx : t.frames.rxCnt = x.frames.rxCnt + d.length) :
    ReadsSoFar t (reads ++ [.read (9 - x.frames.rxCnt) d]) := by
  have hcharge := charge_le_one x.cfg.attemptCounting d.length
  have hcounted := h.counted
  refine ⟨fun k hk => ?each, fun hall => ?charged, ?counted, by rw [hcfg]; omega, by omega⟩
  case each =>
    rcases List.mem_append.mp hk with hk | hk
    · exact h.each k hk
    · exact ⟨_, d, List.mem_singleton.mp hk, by omega, by omega, hd⟩
  case charged =>
    rw [hcfg] at hall
    have := h.charged hall
    rw [List.length_append, List.length_singleton, hatt, hall, charge]
    omega
  case counted =>
    have hone : charge x.cfg.attemptCounting d.length = 1 ∨ 0 < d.length := by
      unfold charge
      cases x.cfg.attemptCounting with
      | allCalls => exact .inl rfl
      | zeroReturnsOnly => by_cases h0 : d.length = 0 <;> simp [h0]; omega
    rw [List.length_append, List.length_singleton]
    omega

/-- A row in the middle of an exchange goes on with it or ends it within its budget. -/
theorem Midway.row {q : Frame} {s x t : State} (hq : codecEncode s.cur.cmd s.cur.pl s.cur.len = some q)
    (hx : Midway q s x) (h : tick x = .next t) : Midway q s t ∨ ∃ y, Over q s y ∧ Ends y t := by
  obtain ⟨hnear, new, hnew, hsofar⟩ := hx
  cases hp : x.phase <;> simp only [CallsSoFar, hp] at hsofar
  case flush =>
    subst hsofar
    obtain ⟨u, hu, rfl⟩ := tick_flush hp h
    obtain ⟨-, sc, d, e, rfl⟩ := chFlush_next hu
    exact .inl ⟨hnear.trans (by constructor <;> rfl), [.flush], by simp [hnew], rfl⟩
  case write =>
    subst hsofar
    obtain ⟨f, r, hf, hr, rfl⟩ := tick_write hp h
    rw [hnear.cur, hq, Option.some_inj] at hf
    subst hf
    obtain ⟨-, hn, sc, d, e, hr2⟩ := chWrite_next hr
    have hcalls : r.2.calls = s.calls ++ [.flush, .write q r.1] := by simp [hr2, hnew]
    have hnear2 : Near s r.2 := hnear.trans (by rw [hr2]; constructor <;> rfl)
    split
    · exact .inr ⟨r.2, ⟨hnear2, _, hcalls, exchangeBudget_write _ _ hn⟩, .inl ⟨_, .inl rfl, rfl⟩⟩
    · unfold exchangeWritten
      split
      · next hz =>
        refine .inr ⟨clearResult r.2, ⟨hnear2.trans (by constructor <;> rfl), _, hcalls, exchangeBudget_write _ _ hn⟩,
          .inr ?_⟩
        simp [exchangeSucceeded, hz.1]
      · refine .inl ⟨hnear2.trans (by constructor <;> rfl), [.flush, .write q r.1], hcalls, [], ?_, ?_⟩
        · rw [show r.1 = 9 by omega]
        · exact ⟨nofun, fun _ => Nat.zero_le _, Nat.zero_le _, Nat.zero_le _, Nat.zero_le _⟩
  case read =>
    obtain ⟨reads, rfl, hreads⟩ := hsofar
    have hbudget := hreads.budget q
    rw [hnear.cfg] at hbudget
    rcases tick_read hp h with ⟨h9, ha, r, hr, rfl⟩ | ⟨-, -, rfl⟩ | ⟨-, rfl⟩
    · obtain ⟨-, hd, sc, d, e, hr2, -⟩ := chRead_next hr
      have hphase : (accumulate r.1 r.2).phase = .read := by rw [accumulate_phase, hr2]; exact hp
      refine .inl ⟨hnear.trans (by rw [hr2]; constructor <;> rfl),
        .flush :: .write q 9 :: (reads ++ [.read (9 - x.frames.rxCnt) r.1]), ?_, ?_⟩
      · simp [hr2, hnew]
      · simp only [CallsSoFar, hphase]
        exact ⟨_, rfl, hreads.read h9 ha hd (by rw [hr2]; rfl) (by rw [hr2]; rfl) (by rw [hr2]; rfl)⟩
    · exact .inr ⟨x, ⟨hnear, _, hnew, hbudget⟩, .inl ⟨_, .inr (.inl rfl), rfl⟩⟩
    · refine .inl ⟨hnear.trans (by constructor <;> rfl), _, hnew, ?_⟩
      simpa only [CallsSoFar, toPhase_phase, toPhase_cfg, hnear.cfg] using hbudget
  case decode =>
    rw [hnear.cfg] at hsofar
    rcases tick_decode hp h with ⟨-, rfl⟩ | ⟨-, rfl⟩
    · exact .inr ⟨storeDecoded _ x, ⟨hnear.trans (by constructor <;> rfl), new, hnew, hsofar⟩, .inr rfl⟩
    · exact .inr ⟨storeMismatch _ x, ⟨hnear.trans (by constructor <;> rfl), new, hnew, hsofar⟩,
        .inl ⟨_, .inr (.inr ⟨_, rfl⟩), rfl⟩⟩

/-- Rows that end idle and begin in the middle of an exchange bring it to its end. -/
theorem Midway.rows {q : Frame} {s x t : State} (hq : codecEncode s.cur.cmd s.cur.pl s.cur.len = some q)
    (hx : Midway q s x) (h : Rows x t) (ht : t.phase = .idle) : ∃ y u, Over q s y ∧ Ends y u ∧ Rows u t := by
  induction h with
  | refl =>
    obtain ⟨-, new, -, hsofar⟩ := hx
    simp [CallsSoFar, ht] at hsofar
  | row _ hrow hrest ih =>
    rcases hx.row hq hrow with hmid | ⟨y, hover, hends⟩
    · exact ih hmid ht
    · exact ⟨y, _, hover, hends, hrest⟩

/-- An exchange begins in the middle of itself. -/
theorem midway_startExchange (q : Frame) (s : State) : Midway q (startExchange s) (startExchange s) :=
  ⟨.refl _, [], (List.append_nil _).symm, rfl⟩

/-- An idle block has no rows to go. -/
theorem Rows.eq_of_idle {s t : State} (h : Rows s t) (hs : s.phase = .idle) : t = s := by
  cases h with
  | refl => rfl
  | row hb => exact absurd hs hb

/-! ## A command -/

/-- The state in which a command on an open handle begins its exchange. -/
def begun (i : Instr) (s : State) : State := startExchange (latch (opOf i) (argOf i) (some (reqOf i)) s)

/-- The exchange of a command sends the command's frame. -/
theorem codecEncode_begun {i : Instr} (hi : i.isCommand = true) (s : State) :
    codecEncode (begun i s).cur.cmd (begun i s).cur.pl (begun i s).cur.len = some (wireFrame i) := by
  rw [← requestFrame_command hi, ← codecEncode_reqOf hi]
  rfl

/-- A command that answers next on an open handle has made one exchange, and raised one of its errors or completed with
what it makes of the response (42_commands.md R160, R161). -/
theorem command_ends {i : Instr} (hi : i.isCommand = true) {s t : State} (hp : s.phase = .idle)
    (ho : s.handle.hs = .opened) (h : exec i s = .next t) :
    ∃ y, Over (wireFrame i) (begun i s) y ∧
      ((∃ e : OpError, e.ofExchange ∧ t = raise e y) ∨ t = complete (interpret y)) := by
  obtain ⟨hno, -⟩ | ⟨-, hrows, ht⟩ := command_next hi hp h
  · exact absurd ho hno
  · obtain ⟨y, u, hover, hends, hrest⟩ :=
      Midway.rows (codecEncode_begun hi s) (midway_startExchange _ _) hrows ht
    have hop : y.cur.op ≠ .openOp := by
      rw [hover.near.cur]
      exact (opOf_command hi).1
    refine ⟨y, hover, ?_⟩
    rcases hends with ⟨e, he, rfl⟩ | rfl
    · rw [exchangeFailed_command hop] at hrest
      exact .inl ⟨e, he, hrest.eq_of_idle rfl⟩
    · rw [exchangeSucceeded_eq, if_neg hop] at hrest
      exact .inr (hrest.eq_of_idle rfl)

/-- Settles O40: no call before the error of a handle that is not open, and otherwise those of the one exchange. -/
theorem commandCallBudget : Obligations.CommandCallBudget := by
  unfold Obligations.CommandCallBudget
  intro i s t hi hp h
  by_cases ho : s.handle.hs = .opened
  · obtain ⟨y, ⟨-, new, hnew, hbudget⟩, hend⟩ := command_ends hi hp ho h
    have hcalls : t.calls = y.calls := by
      rcases hend with ⟨e, -, rfl⟩ | rfl
      · rfl
      · exact (internal_of_interpret (internal_complete _)).calls
    exact .inr ⟨ho, new, hcalls.trans hnew, hbudget⟩
  · rw [exec_command_of_not_opened hi hp ho] at h
    cases h
    exact .inl ⟨ho, rfl⟩

/-- The status of a command, and that it keeps the handle state (43_handle.md R190). -/
theorem command_status {i : Instr} (hi : i.isCommand = true) {s t : State} (hp : s.phase = .idle)
    (ho : s.handle.hs = .opened) (h : exec i s = .next t) : t.handle.hs = .opened ∧
      (t.status = .ok ∨ t.status = .writeError ∨ t.status = .readTimeout ∨ t.status = .checksumMismatch) := by
  obtain ⟨y, hover, hend⟩ := command_ends hi hp ho h
  have hy : y.handle.hs = .opened := by rw [hover.near.handle]; exact ho
  rcases hend with ⟨e, he, rfl⟩ | rfl
  · refine ⟨hy, .inr ?_⟩
    rcases he with rfl | rfl | ⟨m, rfl⟩ <;> simp [OpError.status]
  · exact ⟨by simp [hy], .inl rfl⟩

/-- The interpretation of a response reaches no part of the handle but the cached version. -/
theorem interpret_verbose (s : State) : (interpret s).handle.verbose = s.handle.verbose := by
  unfold interpret; cases s.cur.op <;> rfl

theorem interpret_handle {s : State} (h1 : s.cur.op ≠ .openOp) (h2 : s.cur.op ≠ .getVersion) :
    (interpret s).handle = s.handle := by
  cases hop : s.cur.op
  case openOp => exact absurd hop h1
  case getVersion => exact absurd hop h2
  all_goals simp [interpret, hop]

/-- Only GET_VERSION latches its code. -/
theorem opOf_eq_getVersion {i : Instr} (h : opOf i = .getVersion) : i = .getVersion := by
  cases i with
  | getVersion => rfl
  | _ => cases h

/-- The errors of an exchange are not OK. -/
theorem OpError.ofExchange.status_ne_ok {e : OpError} (h : e.ofExchange) : e.status ≠ .ok := by
  rcases h with rfl | rfl | ⟨m, rfl⟩ <;> nofun

/-- Settles O44: error entry keeps the handle, and of the interpretations only GET_VERSION's reaches it. -/
theorem commandsKeepTheHandle : Obligations.CommandsKeepTheHandle := by
  unfold Obligations.CommandsKeepTheHandle
  intro i s t hi hp h
  obtain ⟨hcfg, hhost, -⟩ := exec_grows hp h
  suffices hhandle : t.handle.hs = s.handle.hs ∧ t.handle.verbose = s.handle.verbose ∧
      (i ≠ .getVersion ∨ t.status ≠ .ok → t.handle = s.handle) from
    ⟨⟨hhandle.1, hhandle.2.1, hcfg, hhost⟩, fun hor => by rw [KeepsVersion, hhandle.2.2 hor]; exact ⟨rfl, rfl⟩⟩
  by_cases ho : s.handle.hs = .opened
  · obtain ⟨y, hover, hend⟩ := command_ends hi hp ho h
    have hy : y.handle = s.handle := hover.near.handle
    have hop : y.cur.op = opOf i := by rw [hover.near.cur]; rfl
    rcases hend with ⟨e, -, rfl⟩ | rfl
    · rw [raise_handle, hy]
      exact ⟨rfl, rfl, fun _ => rfl⟩
    · rw [complete_handle, interpret_hs, interpret_verbose, ← hy]
      refine ⟨rfl, rfl, fun hor => interpret_handle ?_ ?_⟩
      · rw [hop]
        exact (opOf_command hi).1
      · rw [hop]
        exact hor.elim (mt opOf_eq_getVersion) (absurd rfl)
  · rw [exec_command_of_not_opened hi hp ho] at h
    cases h
    exact ⟨rfl, rfl, fun _ => rfl⟩

/-! ## OPEN's probe -/

/-- What the probe has done when OPEN completes in `t`, seen from `s`, in which it takes its next decision: `exchanges`
are the calls of its further tries (43_handle.md R192). -/
structure Probed (s t : State) (exchanges : List (List ChCall)) : Prop where
  calls : t.calls = s.calls ++ exchanges.flatten
  budget : ∀ x ∈ exchanges, ExchangeBudget s.cfg (wireFrame .getVersion) x
  count : exchanges.length ≤ s.cfg.openVersionTries - s.frames.probeCnt
  all : t.handle.verValid = false → exchanges.length = s.cfg.openVersionTries - s.frames.probeCnt
  hs : t.handle.hs = s.handle.hs
  verbose : t.handle.verbose = s.handle.verbose
  typed : t.typed = s.typed
  status : t.status = .ok

/-- The state in which the probe takes its next decision after a try that ended from `y`: the same but, after success,
for the cached version. -/
theorem Ends.probe {y u : State} (hop : y.cur.op = .openOp) (h : Ends y u) :
    ∃ z, u = probeNext z ∧ z.cur = y.cur ∧ z.cfg = y.cfg ∧ z.calls = y.calls ∧ z.frames = y.frames ∧
      z.typed = y.typed ∧ z.handle.hs = y.handle.hs ∧ z.handle.verbose = y.handle.verbose := by
  rcases h with ⟨e, -, rfl⟩ | rfl
  · rw [exchangeFailed_eq, if_pos hop]
    exact ⟨y, rfl, rfl, rfl, rfl, rfl, rfl, rfl, rfl⟩
  · refine ⟨interpretGetVersion y, ?_, rfl, rfl, rfl, rfl, rfl, rfl, rfl⟩
    simp [exchangeSucceeded, hop]

/-- Every probe ends, with OK, after no more tries than are left, and with all of them if it got no version. -/
theorem probe_ends {s t : State} (hop : s.cur.op = .openOp)
    (hq : codecEncode s.cur.cmd s.cur.pl s.cur.len = some (wireFrame .getVersion)) (h : Rows (probeNext s) t)
    (ht : t.phase = .idle) : ∃ exchanges, Probed s t exchanges := by
  generalize hn : s.cfg.openVersionTries - s.frames.probeCnt = n
  induction n generalizing s with
  | zero =>
    rcases probeNext_cases s with ⟨hlt, -⟩ | ⟨-, he⟩
    · omega
    · rw [he] at h
      cases h.eq_of_idle rfl
      exact ⟨[], by simp, nofun, Nat.zero_le _, fun _ => hn.symm, rfl, rfl, rfl, rfl⟩
  | succ n ih =>
    rcases probeNext_cases s with ⟨hlt, -, he⟩ | ⟨hor, he⟩ <;> rw [he] at h
    · obtain ⟨y, u, ⟨hnear, new, hnew, hbudget⟩, hends, hrest⟩ :=
        Midway.rows (s := startExchange (countProbe s)) hq (midway_startExchange _ _) h ht
      obtain ⟨z, rfl, hcur, hcfg, hcalls, hframes, htyped, hhs, hverbose⟩ := hends.probe (by rw [hnear.cur]; exact hop)
      have hzcur : z.cur = s.cur := hcur.trans hnear.cur
      have hzcfg : z.cfg = s.cfg := hcfg.trans hnear.cfg
      have hzcnt : z.frames.probeCnt = s.frames.probeCnt + 1 := by rw [hframes, hnear.probeCnt]; rfl
      have hzhandle : z.handle.hs = s.handle.hs ∧ z.handle.verbose = s.handle.verbose := by
        rw [hhs, hverbose, hnear.handle]
        exact ⟨rfl, rfl⟩
      obtain ⟨exchanges, hprobed⟩ := ih (s := z) (by rw [hzcur, hop]) (by rw [hzcur, hq]) hrest
        (by rw [hzcfg, hzcnt]; omega)
      have hleft : z.cfg.openVersionTries - z.frames.probeCnt + 1 = s.cfg.openVersionTries - s.frames.probeCnt := by
        rw [hzcfg, hzcnt]
        omega
      refine ⟨new :: exchanges, ?_, ?_, ?_, ?_, hprobed.hs.trans hzhandle.1, hprobed.verbose.trans hzhandle.2,
        hprobed.typed.trans (htyped.trans hnear.typed), hprobed.status⟩
      · rw [hprobed.calls, hcalls, hnew, List.flatten_cons, List.append_assoc]
        rfl
      · refine List.forall_mem_cons.mpr ⟨hbudget, ?_⟩
        rw [← hzcfg]
        exact hprobed.budget
      · rw [List.length_cons, ← hleft]
        exact Nat.succ_le_succ hprobed.count
      · intro hno
        rw [List.length_cons, ← hleft, hprobed.all hno]
    · cases h.eq_of_idle rfl
      refine ⟨[], by simp, nofun, Nat.zero_le _, fun hno => ?_, rfl, rfl, rfl, rfl⟩
      rcases hor with hle | hver
      · omega
      · rw [completeOpen_handle, hver] at hno
        cases hno

/-- OPEN that answers next: ChOpen failed and the handle is as it was, or the handle is open and the probe has ended. -/
theorem open_ends {v : Bool} {s t : State} (hp : s.phase = .idle) (h : exec (.openHandle v) s = .next t) :
    s.handle.hs = .closedNew ∧
      ((t.calls = s.calls ++ [.open false] ∧ t.status = .channelOpenError ∧ t.handle = s.handle) ∨
      ∃ u exchanges, Probed u t exchanges ∧ u.calls = s.calls ++ [.open true] ∧ u.frames.probeCnt = 0 ∧
        u.cfg = s.cfg ∧ u.handle.hs = .opened ∧ u.handle.verbose = v ∧ u.typed = s.typed) := by
  obtain ⟨hn, r, hr, ht, hor⟩ := open_next hp h
  obtain ⟨sc, d, hr2⟩ := chOpen_next hr
  refine ⟨hn, ?_⟩
  rcases hor with ⟨hok, hrows⟩ | ⟨hfail, rfl⟩
  · obtain ⟨exchanges, hprobed⟩ := probe_ends (s := openRegs r.2) (by rw [hr2]; rfl)
      (by rw [hr2]; exact codecEncode_begun (i := .getVersion) rfl s) hrows ht
    exact .inr ⟨_, exchanges, hprobed, by simp [hr2, hok], rfl, by rw [hr2]; rfl, rfl, by rw [hr2]; rfl,
      by rw [hr2]; rfl⟩
  · exact .inl ⟨by simp [hr2, hfail], rfl, by rw [hr2]; rfl⟩

/-- Settles O48: one ChOpen, then the exchanges of the probe. -/
theorem openCallBudget : Obligations.OpenCallBudget := by
  unfold Obligations.OpenCallBudget
  intro v s t hp h
  obtain ⟨-, ⟨hcalls, -, -⟩ | ⟨u, exchanges, hprobed, hcalls, hcnt, hcfg, -⟩⟩ := open_ends hp h
  · exact ⟨false, [], by simpa using hcalls, nofun, Nat.zero_le _, fun _ => rfl, nofun⟩
  · obtain ⟨hprobe, hbudget, hcount, hall, -⟩ := hprobed
    rw [hcfg, hcnt] at hcount hall
    rw [hcfg] at hbudget
    exact ⟨true, exchanges, by rw [hprobe, hcalls]; simp, hbudget, hcount, nofun, fun _ => hall⟩

/-! ## All operations -/

/-- Settles O23: the three kinds of operations, a command in each handle state. -/
theorem handleTransitions : Obligations.HandleTransitions := by
  unfold Obligations.HandleTransitions
  intro i s t hp h
  rcases instr_kinds i with ⟨v, rfl⟩ | rfl | hi
  · obtain ⟨hn, ⟨hcalls, hstatus, hhandle⟩ | ⟨u, exchanges, hprobed, hcalls, -, -, ho, -⟩⟩ := open_ends hp h
    · simp only [hn]
      exact .inr ⟨by simp [hcalls], hstatus, by rw [hhandle, hn]⟩
    · simp only [hn]
      exact .inl ⟨by simp [hprobed.calls, hcalls], hprobed.status, hprobed.hs.trans ho⟩
  · rcases close_next hp h with ⟨hn, rfl⟩ | ⟨hd, rfl⟩ | ⟨ho, u, -, rfl⟩
    · simp only [hn]
      exact ⟨rfl, hn⟩
    · simp only [hd]
      exact ⟨rfl, hd⟩
    · simp only [ho]
      exact ⟨rfl, rfl⟩
  · by_cases ho : s.handle.hs = .opened
    · have hopen := command_status hi hp ho h
      cases i with
      | openHandle v => cases hi
      | closeHandle => cases hi
      | _ => simp only [ho]; exact hopen
    · rw [exec_command_of_not_opened hi hp ho] at h
      cases h
      cases hs : s.handle.hs with
      | opened => exact absurd hs ho
      | closedNew | closedDone =>
        cases i with
        | openHandle v => cases hi
        | closeHandle => cases hi
        | _ => exact ⟨rfl, hs⟩

/-- Settles O49: the codes by evaluation, and the status each kind of operation leaves. -/
theorem statusCodes : Obligations.StatusCodes := by
  unfold Obligations.StatusCodes
  refine ⟨by decide, fun i s t hp h => ⟨?_, ?_, fun hi => ?_⟩⟩
  · rintro v rfl
    obtain ⟨-, ⟨-, hstatus, -⟩ | ⟨u, exchanges, hprobed, -⟩⟩ := open_ends hp h
    · rw [hstatus]
      decide
    · rw [hprobed.status]
      decide
  · rintro rfl
    rcases close_next hp h with ⟨-, rfl⟩ | ⟨-, rfl⟩ | ⟨-, u, -, rfl⟩ <;> simp [OpError.status, Status.code]
  · by_cases ho : s.handle.hs = .opened
    · obtain ⟨-, hstatus | hstatus | hstatus | hstatus⟩ := command_status hi hp ho h <;> rw [hstatus] <;> decide
    · rw [exec_command_of_not_opened hi hp ho] at h
      cases h
      simp [OpError.status, Status.code]

/-- The typed results an interpretation does not own (10_state.md R36). -/
theorem interpret_keepsCo2 {s : State} (h : s.cur.op ≠ .readCo2) : KeepsCo2 s (interpret s) := by
  cases hop : s.cur.op
  case readCo2 => exact absurd hop h
  all_goals simp [interpret, hop, KeepsCo2]

/-- READ_CO2 writes the fields it owns and no other (42_commands.md R162). -/
theorem readCo2Of_others (c : Config) (r : Payload) (t : Readings) :
    (readCo2Of c r t).tempRaw = t.tempRaw ∧ (readCo2Of c r t).abcOn = t.abcOn := by
  unfold readCo2Of
  split <;> exact ⟨rfl, rfl⟩

theorem interpret_keepsTempRaw {s : State} (h : s.cur.op ≠ .readTemp) : KeepsTempRaw s (interpret s) := by
  cases hop : s.cur.op
  case readTemp => exact absurd hop h
  all_goals simp [interpret, hop, KeepsTempRaw, readCo2Of_others]

theorem interpret_keepsAbc {s : State} (h : s.cur.op ≠ .getAbc) : KeepsAbc s (interpret s) := by
  cases hop : s.cur.op
  case getAbc => exact absurd hop h
  all_goals simp [interpret, hop, KeepsAbc, readCo2Of_others]

/-- Settles O43: OPEN and CLOSE keep every typed result, and a command those its interpretation does not own. -/
theorem resultsHaveOneWriter : Obligations.ResultsHaveOneWriter := by
  unfold Obligations.ResultsHaveOneWriter
  intro i s t hp h hok
  have hkept (htyped : t.typed = s.typed) : KeepsCo2 s t ∧ KeepsTempRaw s t ∧ KeepsAbc s t := by
    simp [KeepsCo2, KeepsTempRaw, KeepsAbc, htyped]
  rcases instr_kinds i with ⟨v, rfl⟩ | rfl | hi
  · obtain ⟨-, ⟨-, hstatus, -⟩ | ⟨u, exchanges, hprobed, -, -, -, -, -, htyped⟩⟩ := open_ends hp h
    · rw [hstatus] at hok
      cases hok
    · obtain ⟨hco2, htemp, habc⟩ := hkept (hprobed.typed.trans htyped)
      exact ⟨fun _ => hco2, fun _ => htemp, fun _ => habc⟩
  · rcases close_next hp h with ⟨-, rfl⟩ | ⟨-, rfl⟩ | ⟨-, u, hu, rfl⟩
    · cases hok
    · cases hok
    · obtain ⟨-, sc, d, rfl⟩ := chClose_next hu
      exact ⟨fun _ => ⟨rfl, rfl, rfl⟩, fun _ => rfl, fun _ => rfl⟩
  · by_cases ho : s.handle.hs = .opened
    · obtain ⟨y, hover, ⟨e, he, rfl⟩ | rfl⟩ := command_ends hi hp ho h
      · exact absurd hok he.status_ne_ok
      · have hy : s.typed = y.typed := hover.near.typed.symm
        have hop : y.cur.op = opOf i := by rw [hover.near.cur]; rfl
        simp only [KeepsCo2, KeepsTempRaw, KeepsAbc, complete_typed, hy]
        refine ⟨fun hne => interpret_keepsCo2 ?_, fun hne => interpret_keepsTempRaw ?_,
          fun hne => interpret_keepsAbc ?_⟩
        all_goals
          rw [hop]
          cases i <;> simp [opOf] at hne ⊢
    · rw [exec_command_of_not_opened hi hp ho] at h
      cases h
      cases hok

/-- On a handle closed again every operation that answers next is an error taken at acceptance. -/
theorem exec_closedDone {i : Instr} {s t : State} (hp : s.phase = .idle) (hd : s.handle.hs = .closedDone)
    (h : exec i s = .next t) : t.handle.hs = .closedDone ∧ t.calls = s.calls ∧ t.chan = s.chan := by
  rcases instr_kinds i with ⟨v, rfl⟩ | rfl | hi
  · have hn := (open_next hp h).1
    rw [hd] at hn
    cases hn
  · rcases close_next hp h with ⟨hn, -⟩ | ⟨-, rfl⟩ | ⟨ho, -⟩
    · rw [hd] at hn
      cases hn
    · exact ⟨hd, rfl, rfl⟩
    · rw [hd] at ho
      cases ho
  · rw [exec_command_of_not_opened hi hp (by rw [hd]; decide)] at h
    cases h
    exact ⟨hd, rfl, rfl⟩

/-- Settles O24: an idle block takes such an error or waits, and a busy one has another handle state. -/
theorem closedDoneIsTerminal : Obligations.ClosedDoneIsTerminal := by
  unfold Obligations.ClosedDoneIsTerminal
  intro s t hs hd h hreset
  by_cases hp : s.phase = .idle
  · rcases step_idle_next hp h with ⟨-, rfl⟩ | ⟨rest, hrest, -⟩ | ⟨i, hi⟩
    · exact ⟨hd, rfl, rfl⟩
    · exact absurd hrest (hreset rest)
    · exact exec_closedDone (s := s.dropHost) hp hd hi
  · have hphase := hs.phase
    cases hb : s.phase <;> simp [PhaseAgrees, hb, hd] at hphase hp

end Sys2Proof.Machine
end

section
/-! A channel whose answers are all free values within the contract never stops the block (41_transceiver.md R144):
rows, commands, OPEN and steps. -/

namespace Sys2Proof.Machine

/-! ## Calls and rows -/

theorem chOpen_free {s : State} (h : s.script = []) : ∃ r, chOpen s = .next r ∧ r.2.script = [] := by
  simp [chOpen, nextAnswer_free h, h]

theorem chClose_free {s : State} (he : s.chan.established = true) (h : s.script = []) :
    ∃ t, chClose s = .next t ∧ t.script = [] := by
  simp [chClose, nextAnswer_free h, he, h]

/-- Phase, handle, latches and channel agree, and every answer to come is free. -/
structure Free (s : State) : Prop where
  linked : Linked s
  script : s.script = []

/-- A row of an exchange of a free state answers next. -/
theorem Free.exchangeRow {s : State} (hs : Free s) (hp : s.phase.inExchange = true) :
    ∃ t, tick s = .next t ∧ t.script = [] := by
  obtain ⟨ho, ha⟩ := (phaseAgrees_of_inExchange hp).mp hs.linked.phase
  have he := hs.linked.established ho
  cases hq : s.phase <;> simp only [hq, Phase.inExchange, Bool.false_eq_true] at hp
  case flush =>
    obtain ⟨u, hu, hsc⟩ := chFlush_free he hs.script
    exact ⟨toPhase .write u, by simp only [tick, hq, flushRow, hu, andThen_next], hsc⟩
  case write =>
    obtain ⟨f, -, hf⟩ := codecEncode_of_agrees ha
    obtain ⟨r, hr, hsc⟩ := chWrite_free (s := loadFrame f s) he hs.script
    refine ⟨if r.1 < 9 then exchangeFailed .writeError r.2 else exchangeWritten r.2, ?_, ?_⟩
    · simp only [tick, hq, writeRow, hf, hr, andThen_next]
    · split
      · rw [(internal_exchangeFailed _ _).script, hsc]
      · rw [(internal_exchangeWritten _).script, hsc]
  case read =>
    by_cases h9 : s.frames.rxCnt < 9
    · by_cases hatt : s.frames.att < s.cfg.retryCeiling
      · obtain ⟨r, hr, hsc⟩ := chRead_free (n := 9 - s.frames.rxCnt) he hs.script
        exact ⟨accumulate r.1 r.2, by simp only [tick, hq, readRow, if_pos h9, if_pos hatt, readCall, hr, andThen_next],
          hsc⟩
      · exact ⟨exchangeFailed .readTimeout s, by simp only [tick, hq, readRow, if_pos h9, if_neg hatt],
          (internal_exchangeFailed _ _).script.trans hs.script⟩
    · exact ⟨toPhase .decode s, by simp only [tick, hq, readRow, if_neg h9], hs.script⟩
  case decode =>
    simp only [tick, hq, decodeRow]
    split
    · exact ⟨_, rfl, (internal_exchangeSucceeded _).script.trans hs.script⟩
    · exact ⟨_, rfl, (internal_exchangeFailed _ _).script.trans hs.script⟩

/-- Every row of a free state answers next, and leads to a free state. -/
theorem Free.row {s : State} (hb : s.phase ≠ .idle) (hs : Free s) : ∃ t, tick s = .next t ∧ Free t := by
  suffices hnext : ∃ t, tick s = .next t ∧ t.script = [] by
    obtain ⟨t, ht, hsc⟩ := hnext
    exact ⟨t, ht, hs.linked.row hb ht, hsc⟩
  cases hp : s.phase with
  | idle => exact absurd hp hb
  | chOpen =>
    obtain ⟨r, hr, hsc⟩ := chOpen_free hs.script
    refine ⟨if r.1 then probeNext (openRegs r.2) else raise .channelOpenError r.2,
      by simp only [tick, hp, chOpenRow, hr, andThen_next], ?_⟩
    split
    · exact (internal_probeNext _).script.trans hsc
    · exact hsc
  | chClose =>
    obtain ⟨ho, -⟩ : s.handle.hs = .opened ∧ s.cur.op = .closeOp := by
      simpa [PhaseAgrees, hp] using hs.linked.phase
    obtain ⟨u, hu, hsc⟩ := chClose_free (hs.linked.established ho) hs.script
    exact ⟨complete (closeRegs u), by simp only [tick, hp, chCloseRow, hu, andThen_next], hsc⟩
  | flush | write | read | decode => exact hs.exchangeRow (by rw [hp]; rfl)

/-- An operation in progress in a free state runs to its end. -/
theorem Free.runs {s : State} (hs : Free s) : ∃ t, Rows s t ∧ runToIdle s = .next t ∧ t.phase = .idle := by
  obtain ⟨t, hrows, ht, -⟩ := runs_next Free.row hs
  exact ⟨t, hrows, runToIdle_of_rows hrows ht, ht⟩

/-! ## Operations -/

/-- Settles O39: the exchange begins in a free state, and the ends of a command are those of `command_status`. -/
theorem commandsEndForEveryDraw : Obligations.CommandsEndForEveryDraw := by
  unfold Obligations.CommandsEndForEveryDraw
  intro i s hi ⟨hp, ho, he⟩ hs
  have hfree : Free (begun i s) :=
    ⟨.of_opened (.inr rfl) ho he (agrees_accept _ (reqOf_mem_exchangesOf hi) _), hs⟩
  obtain ⟨t, -, hrun, ht⟩ := hfree.runs
  have hexec : exec i s = .next t := by rw [exec_command hi hp, if_pos ho]; exact hrun
  exact ⟨t, hexec, ht, (operationsEndIdle i s t hexec).2 hp, (commandsKeepTheHandle i s t hi hp hexec).1,
    (command_status hi hp ho hexec).2⟩

/-- Settles O21: the probe begins in a free state, and ends as `open_ends` says. -/
theorem openSucceedsForEveryDraw : Obligations.OpenSucceedsForEveryDraw := by
  unfold Obligations.OpenSucceedsForEveryDraw
  intro v s hp hn hs
  obtain ⟨u, hexec, hrows⟩ := open_rows (v := v) hp hn hs
  have hfree : Free (probeNext (openStart v [] s)) :=
    ⟨.of_internal (internal_probeNext _) (probeNext_phase _) (by simp) rfl rfl
      (agrees_accept _ (o := .openOp) (r := exchangeProbe) (by simp [exchangesOf]) _), (internal_probeNext _).script⟩
  obtain ⟨t, hprobe, -, ht⟩ := hfree.runs
  rw [runToIdle_of_rows (hrows.trans hprobe) ht] at hexec
  obtain ⟨exchanges, hprobed⟩ := probe_ends (s := openStart v [] s) rfl (codecEncode_begun (i := .getVersion) rfl s)
    hprobe ht
  obtain ⟨hcfg, hhost, -⟩ := exec_grows hp hexec
  exact ⟨t, hexec, ⟨ht, hprobed.status, (operationsEndIdle _ s t hexec).2 hp⟩, hprobed.hs, hprobed.verbose,
    hprobed.typed, hcfg, hhost⟩

/-- An idle block accepts every operation but OPEN on a handle that is not new. -/
theorem acceptOf_next_or_refused (i : Instr) (s : State) :
    (∃ u, acceptOf i s = .next u) ∨ acceptOf i s = .refused .openWhenNotNew := by
  cases i <;> simp only [acceptOf, beginCommand, beginOpen, beginClose] <;> split <;> simp

/-- With free answers an operation on an idle block answers next, or is OPEN on a handle that is not new. -/
theorem Free.exec {s : State} (hs : Free s) (hp : s.phase = .idle) (i : Instr) :
    (∃ t, Machine.exec i s = .next t) ∨ Machine.exec i s = .refused .openWhenNotNew := by
  rw [exec_eq, runOperation_idle hp]
  rcases acceptOf_next_or_refused i s with ⟨u, hu⟩ | hu <;> rw [hu]
  · obtain ⟨-, -, -, -, -, hscript⟩ := acceptOf_keeps hu
    obtain ⟨t, -, hrun, -⟩ := Free.runs ⟨hs.linked.accept hu, hscript.trans hs.script⟩
    exact .inl ⟨t, hrun⟩
  · exact .inr rfl

/-- With free answers a step answers next, or is refused for one of the host's two exclusions. -/
theorem Free.step {s : State} (hs : Free s) :
    (∃ t, Machine.step s = .next t) ∨ Machine.step s = .refused .openWhenNotNew ∨
      Machine.step s = .refused .noSuchOperation := by
  by_cases hp : s.phase = .idle
  · rw [Machine.step, if_pos hp]
    split
    · exact .inl ⟨_, rfl⟩
    · exact .inl ⟨_, rfl⟩
    · split
      · next i _ =>
        have hdrop : Free s.dropHost := ⟨⟨hs.linked.phase, hs.linked.established⟩, hs.script⟩
        exact (hdrop.exec hp i).imp_right .inl
      · exact .inr (.inr rfl)
  · rw [step_busy hp]
    obtain ⟨t, ht, -⟩ := hs.row hp
    exact .inl ⟨t, ht⟩

/-- Settles O47: the invariant links the state, and with free answers only the two exclusions stop a step. -/
theorem onlyTheHostIsRefused : Obligations.OnlyTheHostIsRefused := by
  unfold Obligations.OnlyTheHostIsRefused
  intro s hinv hs
  obtain ⟨hlinked, -⟩ := inv_iff.mp hinv
  obtain ⟨t, ht⟩ | ht | ht := Free.step ⟨hlinked, hs⟩ <;> rw [ht]
  · exact ⟨nofun, nofun⟩
  · exact ⟨fun r hr => by cases hr; exact .inl rfl, nofun⟩
  · exact ⟨fun r hr => by cases hr; exact .inr rfl, nofun⟩

end Sys2Proof.Machine
end

section
/-! What a command leaves for each way its channel can answer: the results of a valid response (42_commands.md R162 to
R167), and the three errors of an exchange (60_exceptions.md R214 to R216). -/

namespace Sys2Proof.Machine

/-! ## The run of a command, by the channel's answers -/

/-- A command on an open handle goes where the rows of its exchange lead. -/
theorem exec_of_rows {i : Instr} {s t : State} (hi : i.isCommand = true) (hs : s.Ready) (hrows : Rows (begun i s) t)
    (ht : t.phase = .idle) : exec i s = .next t := by
  rw [exec_command hi hs.1, if_pos hs.2.1]
  exact runToIdle_of_rows hrows ht

/-- The row after the write of a command that awaits a response is a read (42_commands.md R166). -/
theorem reads_of_awaits {i : Instr} {s : State} (h : Awaits s.cfg i) :
    ¬ ((begun i s).cur.op = .zeroCal ∧ (begun i s).cfg.zeroCalAwaitsResponse = false) := by
  rintro ⟨hop, hno⟩
  have hi : i = .zeroCal := by
    cases i with
    | zeroCal => rfl
    | _ => cases hop
  have hyes : (begun i s).cfg.zeroCalAwaitsResponse = true := h hi
  rw [hno] at hyes
  cases hyes

section
variable {i : Instr} {s : State} {rest : List ChAnswer} (hi : i.isCommand = true) (hs : s.Ready)
include hi hs

/-- A short write ends a command with WriteError. -/
theorem exec_short {k : Nat} {e0 e1 : LineEvent} (hsc : s.script = .flushed e0 :: .wrote k e1 :: rest) (hk : k < 9) :
    ∃ u, After [.flush, .write (wireFrame i) k] (s.chan.afterWrite e0 e1 ((wireFrame i).toList.take k)) rest
      (begun i s) u ∧ exec i s = .next (raise .writeError u) := by
  obtain ⟨u, hrows, hafter⟩ := rows_write (s := begun i s) rfl hs.2.2 (codecEncode_begun hi s) hsc (by omega)
  rw [if_pos hk, exchangeFailed_command (by rw [hafter.same.cur]; exact (opOf_command hi).1)] at hrows
  exact ⟨u, hafter, exec_of_rows hi hs hrows rfl⟩

variable {r : Reply} (ha : Awaits s.cfg i) (hsc : s.script = r.answers ++ rest)
include ha hsc

/-- A silent channel ends a command with ReadTimeout. -/
theorem exec_silent (hd : TimesOut s.cfg r) :
    ∃ u, After (exchangeCalls (wireFrame i) r) (r.channelAfter (wireFrame i) s.chan) rest (begun i s) u ∧
      exec i s = .next (raise .readTimeout u) := by
  obtain ⟨u, hafter, hrows⟩ := rows_silent (s := begun i s) rfl hs.2.2 (codecEncode_begun hi s) hsc
    (reads_of_awaits ha) hd
  rw [exchangeFailed_command (by rw [hafter.same.cur]; exact (opOf_command hi).1)] at hrows
  exact ⟨u, hafter, exec_of_rows hi hs hrows rfl⟩

/-- A corrupted response ends a command with ChecksumMismatch. -/
theorem exec_corrupted {f : Frame} (hd : Delivers s.cfg r f) (hf : ¬ Valid f) :
    ∃ u, After (exchangeCalls (wireFrame i) r) (r.channelAfter (wireFrame i) s.chan) rest (begun i s) u ∧
      exec i s = .next (raise (.checksumMismatch { expected := checksum f, actual := f[8] }) u) := by
  obtain ⟨u, hafter, -, hrows⟩ := rows_delivered (s := begun i s) rfl hs.2.2 (codecEncode_begun hi s) hsc
    (reads_of_awaits ha) hd
  replace hrows := hrows hf
  rw [exchangeFailed_command (by rw [storeMismatch_cur, hafter.same.cur]; exact (opOf_command hi).1)] at hrows
  exact ⟨u, hafter, exec_of_rows hi hs hrows rfl⟩

/-- A valid response completes a command with what it makes of the payload. -/
theorem exec_answered {f : Frame} (hd : Delivers s.cfg r f) (hf : Valid f) :
    ∃ u, After (exchangeCalls (wireFrame i) r) (r.channelAfter (wireFrame i) s.chan) rest (begun i s) u ∧
      exec i s = .next (complete (interpret (storeDecoded { rcmd := f[2], rpay := framePayload f } u))) := by
  obtain ⟨u, hafter, hrows, -⟩ := rows_delivered (s := begun i s) rfl hs.2.2 (codecEncode_begun hi s) hsc
    (reads_of_awaits ha) hd
  replace hrows := hrows hf
  rw [exchangeSucceeded_eq, if_neg (by rw [storeDecoded_cur, hafter.same.cur]; exact (opOf_command hi).1)] at hrows
  exact ⟨u, hafter, exec_of_rows hi hs hrows rfl⟩

end

/-! ## The errors -/

/-- What an error after an exchange leaves alone, and the calls and the channel the exchange has left. -/
theorem After.raised {i : Instr} {s u : State} {new : List ChCall} {c : Channel} {rest : List ChAnswer}
    (h : After new c rest (begun i s) u) (e : OpError) :
    Completed s (raise e u) e.status ∧ KeepsHost s (raise e u) ∧ KeepsVersion s (raise e u) ∧
      (raise e u).calls = s.calls ++ new ∧ (raise e u).script = rest ∧ (raise e u).chan = c := by
  have hhandle : u.handle = s.handle := h.same.handle
  refine ⟨⟨rfl, rfl, ?_⟩, ⟨?_, ?_, h.same.cfg, h.same.hostIn⟩, ⟨?_, ?_⟩, h.calls, h.script, h.chan⟩
  · rw [raise_done, h.same.done]
    rfl
  all_goals rw [raise_handle, hhandle]

/-- Settles O31: the short write leaves the error, and `After.raised` says what that keeps. -/
theorem shortWriteIsWriteError : Obligations.ShortWriteIsWriteError := by
  unfold Obligations.ShortWriteIsWriteError
  intro i s k e0 e1 rest hi hs hsc hk
  obtain ⟨u, hafter, hexec⟩ := exec_short hi hs hsc hk
  exact ⟨_, hexec, hafter.raised .writeError⟩

/-- Settles O32: the silence leaves the error, and `After.raised` says what that keeps. -/
theorem silenceIsReadTimeout : Obligations.SilenceIsReadTimeout := by
  unfold Obligations.SilenceIsReadTimeout
  intro i s r rest hi ha hs hsc hd
  obtain ⟨u, hafter, hexec⟩ := exec_silent hi hs ha hsc hd
  exact ⟨_, hexec, hafter.raised .readTimeout⟩

/-- Settles O33: the two fields are those the error records. -/
theorem corruptionIsChecksumMismatch : Obligations.CorruptionIsChecksumMismatch := by
  unfold Obligations.CorruptionIsChecksumMismatch
  intro i s r f rest hi ha hs hsc hd hf
  obtain ⟨u, hafter, hexec⟩ := exec_corrupted hi hs ha hsc hd hf
  obtain ⟨hcompleted, hhost, hversion, hchannel⟩ :=
    hafter.raised (.checksumMismatch { expected := checksum f, actual := f[8] })
  exact ⟨_, hexec, hcompleted, hhost, hversion, rfl, rfl, hchannel⟩

/-! ## The raw result -/

/-- Byte `k` of the result is payload byte `k`, as far as the width reaches (41_transceiver.md R138). -/
theorem storeResult_getElem {n k : Nat} (hk : k < n) (h5 : k < 5) (r old : Payload) :
    (storeResult n r old)[k] = r[k] := by
  match k, h5 with
  | 0, _ | 1, _ | 2, _ | 3, _ | 4, _ => simp [storeResult, hk]

/-- The result read back to its width is the leading part of the payload. -/
theorem take_storeResult (n : Nat) (r old : Payload) : (storeResult n r old).toList.take n = r.toList.take n := by
  apply List.ext_getElem (by simp)
  intro _ hk _
  rw [List.length_take, Vector.length_toList] at hk
  simpa using storeResult_getElem (by omega) (by omega) r old

theorem interpret_raw (s : State) : (interpret s).raw = s.raw := by
  unfold interpret; cases s.cur.op <;> rfl

/-- The state in which command `i`, begun in `s`, interprets the valid response `f`: the operation as it was accepted,
and the result as far as the width reaches (42_commands.md R160). -/
structure Received (i : Instr) (f : Frame) (s x : State) : Prop where
  op : x.cur.op = opOf i
  cfg : x.cfg = s.cfg
  typed : x.typed = s.typed
  res : ∀ (k : Nat) (h5 : k < 5), k < effectiveWidth (reqOf i).width → x.raw.res[k] = (framePayload f)[k]

/-- What every command that completes after a valid response leaves besides its typed results. -/
theorem After.exchanged {i : Instr} {f : Frame} {r : Reply} {rest : List ChAnswer} {s u : State}
    (h : After (exchangeCalls (wireFrame i) r) (r.channelAfter (wireFrame i) s.chan) rest (begun i s) u) :
    Exchanged i (effectiveWidth (reqOf i).width) f r rest s
      (complete (interpret (storeDecoded { rcmd := f[2], rpay := framePayload f } u))) := by
  have hmoves := internal_of_interpret (internal_complete
    (interpret (storeDecoded { rcmd := f[2], rpay := framePayload f } u)))
  have hhandle : u.handle = s.handle := h.same.handle
  have hwidth : u.cur.width = (reqOf i).width := by rw [h.same.cur]; rfl
  have hraw : (complete (interpret (storeDecoded { rcmd := f[2], rpay := framePayload f } u))).raw =
      { resLen := effectiveWidth (reqOf i).width
        res := storeResult (effectiveWidth (reqOf i).width) (framePayload f) u.raw.res
        rcmd := f[2] } := by
    rw [complete_raw, interpret_raw, storeDecoded_raw, hwidth]
  refine ⟨⟨rfl, rfl, ?done⟩, ⟨?hs, ?verbose, hmoves.cfg.trans h.same.cfg, hmoves.hostIn.trans h.same.hostIn⟩, ?resLen,
    ?result, ?rcmd, hmoves.calls.trans h.calls, hmoves.script.trans h.script, hmoves.chan.trans h.chan⟩
  case done =>
    rw [hmoves.done, storeDecoded_done, h.same.done]
    rfl
  case hs => rw [complete_handle, interpret_hs, storeDecoded_handle, hhandle]
  case verbose => rw [complete_handle, interpret_verbose, storeDecoded_handle, hhandle]
  case resLen => rw [hraw]
  case result => rw [State.result, hraw, take_storeResult]
  case rcmd => rw [hraw]

/-- A command on an open handle that gets a valid response receives it and completes with what it makes of it. -/
theorem exec_received {i : Instr} {s : State} {r : Reply} {f : Frame} {rest : List ChAnswer} (hi : i.isCommand = true)
    (ha : Awaits s.cfg i) (hs : s.Ready) (hsc : s.script = r.answers ++ rest) (hd : Delivers s.cfg r f)
    (hf : Valid f) : ∃ x, Received i f s x ∧ exec i s = .next (complete (interpret x)) ∧
      Exchanged i (effectiveWidth (reqOf i).width) f r rest s (complete (interpret x)) := by
  obtain ⟨u, hafter, hexec⟩ := exec_answered hi hs ha hsc hd hf
  have hcur : u.cur = (begun i s).cur := hafter.same.cur
  refine ⟨storeDecoded _ u, ⟨by rw [storeDecoded_cur, hcur]; rfl, hafter.same.cfg, hafter.same.typed,
    fun k h5 hk => ?_⟩, hexec, hafter.exchanged⟩
  rw [storeDecoded_raw, hcur]
  exact storeResult_getElem hk h5 _ _

/-! ## The typed results -/

/-- Two payload bytes as a number (00_scope.md R12). -/
theorem u16be_toNat (h l : Byte) : (u16be h l).toNat = 256 * h.toNat + l.toNat := by
  have hh : h.toNat < 256 := h.isLt
  have hl : l.toNat < 256 := l.isLt
  rw [u16be, BitVec.toNat_ofNat]
  omega

/-- A command that completes with OK keeps the typed results that are not its own, and the cached version if it is not
GET_VERSION. -/
theorem kept_of_ok {i : Instr} {s t : State} (hi : i.isCommand = true) (hp : s.phase = .idle) (h : exec i s = .next t)
    (hok : t.status = .ok) : (i ≠ .getVersion → KeepsVersion s t) ∧ (i ≠ .readCo2 → KeepsCo2 s t) ∧
      (i ≠ .readTemp → KeepsTempRaw s t) ∧ (i ≠ .getAbc → KeepsAbc s t) :=
  ⟨fun hne => (commandsKeepTheHandle i s t hi hp h).2 (.inl hne), resultsHaveOneWriter i s t hp h hok⟩

/-- What each command makes of a response (42_commands.md R162 to R167). -/
theorem interpret_of_readCo2 {s : State} (h : s.cur.op = .readCo2) : interpret s = interpretReadCo2 s := by
  simp [interpret, h]

theorem interpret_of_readTemp {s : State} (h : s.cur.op = .readTemp) : interpret s = interpretReadTemp s := by
  simp [interpret, h]

theorem interpret_of_getAbc {s : State} (h : s.cur.op = .getAbc) : interpret s = interpretGetAbc s := by
  simp [interpret, h]

theorem interpret_of_getVersion {s : State} (h : s.cur.op = .getVersion) : interpret s = interpretGetVersion s := by
  simp [interpret, h]

theorem interpret_of_setAbc {s : State} (h : s.cur.op = .setAbc) : interpret s = s := by simp [interpret, h]

theorem interpret_of_zeroCal {s : State} (h : s.cur.op = .zeroCal) : interpret s = s := by simp [interpret, h]

/-- The typed results of READ_CO2, field by field (42_commands.md R162). -/
theorem readCo2Of_co2Ppm (c : Config) (r : Payload) (t : Readings) : (readCo2Of c r t).co2Ppm = u16be r[0] r[1] := by
  unfold readCo2Of
  split <;> rfl

theorem readCo2Of_withTemp {c : Config} (h : c.hasCo2Temp = true) (r : Payload) (t : Readings) :
    (readCo2Of c r t).tempValid = true ∧ (readCo2Of c r t).tempC = tempOfByte r[2] := by
  rw [readCo2Of, if_pos h]
  exact ⟨rfl, rfl⟩

theorem readCo2Of_noTemp {c : Config} (h : c.hasCo2Temp = false) (r : Payload) (t : Readings) :
    (readCo2Of c r t).tempValid = false ∧ (readCo2Of c r t).tempC = t.tempC := by
  rw [readCo2Of, if_neg (by simp [h])]
  exact ⟨rfl, rfl⟩

/-- Settles O25: the interpretation of the first three payload bytes, in a build with and without the temperature. -/
theorem readCo2Result : Obligations.ReadCo2Result := by
  unfold Obligations.ReadCo2Result
  intro s r f rest hs hsc hd hf
  obtain ⟨x, ⟨hop, hcfg, htyped, hres⟩, hexec, hexchanged⟩ := exec_received (i := .readCo2) rfl nofun hs hsc hd hf
  obtain ⟨hversion, -, hraw, habc⟩ := kept_of_ok rfl hs.1 hexec rfl
  refine ⟨_, hexec, hexchanged, hversion nofun, hraw nofun, habc nofun, ?_⟩
  have ht : (complete (interpret x)).typed = readCo2Of s.cfg x.raw.res s.typed := by
    rw [complete_typed, interpret_of_readCo2 hop, interpretReadCo2_typed, hcfg, htyped]
  refine ⟨?_, fun htemp => ?_, fun htemp => ?_⟩
  · rw [ht, readCo2Of_co2Ppm, u16be_toNat, hres 0 _ (by decide), hres 1 _ (by decide)]
    rfl
  · obtain ⟨hvalid, hval⟩ := readCo2Of_withTemp htemp x.raw.res s.typed
    rw [State.celsius, ht, hvalid, hval, hres 2 _ (by decide), tempOfByte_toInt]
    exact ⟨rfl, rfl⟩
  · rw [ht]
    exact readCo2Of_noTemp htemp _ _

/-- Settles O26: payload bytes 2 and 3 as a number, and a hundredth of it. -/
theorem readTempResult : Obligations.ReadTempResult := by
  unfold Obligations.ReadTempResult
  intro s r f rest hs hsc hd hf
  obtain ⟨x, ⟨hop, -, -, hres⟩, hexec, hexchanged⟩ := exec_received (i := .readTemp) rfl nofun hs hsc hd hf
  obtain ⟨hversion, hco2, -, habc⟩ := kept_of_ok rfl hs.1 hexec rfl
  have ht : (complete (interpret x)).typed.tempRaw.toNat = 256 * f[5].toNat + f[6].toNat := by
    rw [complete_typed, interpret_of_readTemp hop, interpretReadTemp_typed, u16be_toNat, hres 2 _ (by decide),
      hres 3 _ (by decide)]
    rfl
  refine ⟨_, hexec, hexchanged, hversion nofun, hco2 nofun, habc nofun, ht, ?_⟩
  rw [State.celsiusExact, ht, Rat.mkRat_eq_div]
  rfl

/-- Settles O27: no interpretation follows either exchange. -/
theorem setAbcResult : Obligations.SetAbcResult := by
  unfold Obligations.SetAbcResult
  intro i s r f rest hi hs hsc hd hf
  have hset : i.isCommand = true ∧ i ≠ .zeroCal ∧ i ≠ .getVersion ∧ opOf i = .setAbc ∧ (reqOf i).width = 0 := by
    rcases hi with rfl | rfl <;> decide
  obtain ⟨hcommand, hzero, hver, hopOf, hwidth⟩ := hset
  obtain ⟨x, ⟨hop, -, htyped, -⟩, hexec, hexchanged⟩ := exec_received hcommand (absurd · hzero) hs hsc hd hf
  rw [hwidth] at hexchanged
  obtain ⟨hversion, -⟩ := kept_of_ok hcommand hs.1 hexec rfl
  exact ⟨_, hexec, hexchanged, hversion hver,
    by rw [complete_typed, interpret_of_setAbc (hop.trans hopOf), htyped]⟩

/-- Settles O28: a width of six reaches all five payload bytes, the flag byte among them. -/
theorem getAbcResult : Obligations.GetAbcResult := by
  unfold Obligations.GetAbcResult
  intro s r f rest hs hsc hd hf
  obtain ⟨x, ⟨hop, hcfg, -, hres⟩, hexec, hexchanged⟩ := exec_received (i := .getAbc) rfl nofun hs hsc hd hf
  obtain ⟨hversion, hco2, htemp, -⟩ := kept_of_ok rfl hs.1 hexec rfl
  refine ⟨_, hexec, hexchanged, hversion nofun, hco2 nofun, htemp nofun, ?_⟩
  have hbyte : x.raw.res[x.cfg.abcFlagIndex] = (framePayload f)[s.cfg.abcFlagIndex] :=
    (hres _ x.cfg.abcFlagIndex.isLt x.cfg.abcFlagIndex.isLt).trans
      (congrArg (fun c : Config => (framePayload f)[c.abcFlagIndex]) hcfg)
  have hflag : (complete (interpret x)).typed.abcOn = flagOfByte (framePayload f)[s.cfg.abcFlagIndex] := by
    rw [complete_typed, interpret_of_getAbc hop, interpretGetAbc_typed, ← hbyte]
  rw [hflag, flagOfByte, decide_eq_true_iff]
  rfl

/-- After a whole write a ZERO_CAL that awaits no response completes with an empty result (42_commands.md R166). -/
theorem exec_zeroCal_noResponse {s : State} {e0 e1 : LineEvent} {rest : List ChAnswer} (hs : s.Ready)
    (hz : s.cfg.zeroCalAwaitsResponse = false) (hsc : s.script = .flushed e0 :: .wrote 9 e1 :: rest) :
    ∃ u, After [.flush, .write (wireFrame .zeroCal) 9] (s.chan.afterWrite e0 e1 (wireFrame .zeroCal).toList) rest
      (begun .zeroCal s) u ∧ exec .zeroCal s = .next (complete (clearResult u)) := by
  obtain ⟨u, hrows, hafter⟩ := rows_write (s := begun .zeroCal s) (k := 9) rfl hs.2.2 (codecEncode_begun rfl s) hsc
    (Nat.le_refl 9)
  have hwritten : exchangeWritten u = complete (clearResult u) := by
    rw [exchangeWritten, if_pos ⟨by rw [hafter.same.cur]; rfl, by rw [hafter.same.cfg]; exact hz⟩]
  rw [if_neg (Nat.lt_irrefl 9), hwritten] at hrows
  exact ⟨u, hafter, exec_of_rows rfl hs hrows rfl⟩

/-- Settles O29: no interpretation follows the full exchange, and the write alone leaves the results but the length. -/
theorem zeroCalResult : Obligations.ZeroCalResult := by
  unfold Obligations.ZeroCalResult
  constructor
  · intro s r f rest hz hs hsc hd hf
    obtain ⟨x, ⟨hop, -, htyped, -⟩, hexec, hexchanged⟩ := exec_received (i := .zeroCal) rfl (fun _ => hz) hs hsc hd hf
    obtain ⟨hversion, -⟩ := kept_of_ok rfl hs.1 hexec rfl
    exact ⟨_, hexec, hexchanged, hversion nofun, by rw [complete_typed, interpret_of_zeroCal hop, htyped]⟩
  · intro s e0 e1 rest hz hs hsc
    obtain ⟨u, ⟨hsame, hcalls, hchan, hscript⟩, hexec⟩ := exec_zeroCal_noResponse hs hz hsc
    obtain ⟨hhost, hversion⟩ := commandsKeepTheHandle .zeroCal s _ rfl hs.1 hexec
    have hraw : u.raw = s.raw := hsame.raw
    exact ⟨_, hexec, ⟨rfl, rfl, (operationsEndIdle _ s _ hexec).2 hs.1⟩, hhost, hversion (.inl nofun), hsame.typed, rfl,
      by rw [complete_raw, clearResult_raw, hraw], hcalls, hscript, hchan⟩

/-- Settles O30: the four bytes go to the handle and nowhere else. -/
theorem getVersionResult : Obligations.GetVersionResult := by
  unfold Obligations.GetVersionResult
  intro s r f rest hs hsc hd hf
  obtain ⟨x, ⟨hop, -, htyped, hres⟩, hexec, hexchanged⟩ := exec_received (i := .getVersion) rfl nofun hs hsc hd hf
  refine ⟨_, hexec, hexchanged, ?_⟩
  rw [complete_typed, complete_handle, interpret_of_getVersion hop, interpretGetVersion_handle,
    interpretGetVersion_typed]
  refine ⟨htyped, ?_, rfl⟩
  dsimp only
  rw [versionOf, hres 0 _ (by decide), hres 1 _ (by decide), hres 2 _ (by decide), hres 3 _ (by decide)]
  rfl

end Sys2Proof.Machine
end

section
/-! What OPEN and CLOSE leave for each way the channel can answer (43_handle.md R191 to R193). -/

namespace Sys2Proof.Machine

/-! ## OPEN when the channel does not open -/

/-- OPEN on a new handle whose ChOpen is answered `fail` makes the one call and takes the error
(60_exceptions.md R211). -/
theorem exec_open_fails {v : Bool} {s : State} {rest : List ChAnswer} (hp : s.phase = .idle)
    (hn : s.handle.hs = .closedNew) (hs : s.script = .opened false :: rest) :
    exec (.openHandle v) s = .next (raise .channelOpenError
      (({ beginProbe (latch .openOp (some v) (some exchangeProbe) s) with script := rest } : State).called (.open false)
        s.chan)) := by
  have hs' : (beginProbe (latch .openOp (some v) (some exchangeProbe) s)).script = .opened false :: rest := hs
  rw [exec_eq, runOperation_idle hp]
  simp only [acceptOf, beginOpen, hn, if_true, andThen_next]
  refine runToIdle_of_rows (.row (by simp) ?_ (.refl _)) rfl
  simp only [tick, beginProbe_phase, chOpenRow, chOpen_scripted hs', andThen_next]
  rfl

/-- Settles O20: after the one call the error keeps the handle, and the channel was not touched. -/
theorem openFailure : Obligations.OpenFailure := by
  unfold Obligations.OpenFailure
  intro v s rest hp hn hs
  exact ⟨_, exec_open_fails hp hn hs, ⟨rfl, rfl, rfl⟩, rfl, rfl, rfl, rfl, rfl, rfl⟩

/-! ## The probe's tries -/

/-- What `n` tries of the probe leave where its next decision is taken: handle, latches, parameters and typed results as
they were, the calls `new` made, the channel as `c` says, and `rest` of the answers to come. -/
structure Tried (n : Nat) (new : List ChCall) (c : Channel) (rest : List ChAnswer) (s u : State) : Prop where
  handle : u.handle = s.handle
  cur : u.cur = s.cur
  cfg : u.cfg = s.cfg
  typed : u.typed = s.typed
  probeCnt : u.frames.probeCnt = s.frames.probeCnt + n
  calls : u.calls = s.calls ++ new
  chan : u.chan = c
  script : u.script = rest

theorem Tried.refl (s : State) : Tried 0 [] s.chan s.script s s := by constructor <;> simp

theorem Tried.trans {m n : Nat} {new new' : List ChCall} {c c' : Channel} {rest rest' : List ChAnswer}
    {s u w : State} (h : Tried m new c rest s u) (k : Tried n new' c' rest' u w) :
    Tried (m + n) (new ++ new') c' rest' s w :=
  ⟨k.handle.trans h.handle, k.cur.trans h.cur, k.cfg.trans h.cfg, k.typed.trans h.typed,
    by rw [k.probeCnt, h.probeCnt, Nat.add_assoc], by rw [k.calls, h.calls, List.append_assoc], k.chan, k.script⟩

/-- The end of an exchange of the probe is the end of one try. -/
theorem After.tried {new : List ChCall} {c : Channel} {rest : List ChAnswer} {s u : State}
    (h : After new c rest (startExchange (countProbe s)) u) : Tried 1 new c rest s u :=
  ⟨h.same.handle, h.same.cur, h.same.cfg, h.same.typed, h.same.probeCnt, h.calls, h.chan, h.script⟩

/-- The probe stands before its next decision, with no version and a channel to try on. -/
structure Probing (s : State) : Prop where
  op : s.cur.op = .openOp
  encode : codecEncode s.cur.cmd s.cur.pl s.cur.len = some (wireFrame .getVersion)
  established : s.chan.established = true
  noVersion : s.handle.verValid = false

theorem Probing.tried {n : Nat} {new : List ChCall} {c : Channel} {rest : List ChAnswer} {s u : State}
    (hs : Probing s) (h : Tried n new c rest s u) (hc : c.established = true) : Probing u :=
  ⟨by rw [h.cur, hs.op], by rw [h.cur, hs.encode], by rw [h.chan, hc], by rw [h.handle, hs.noVersion]⟩

/-- The tries of the probe read a response. -/
theorem Probing.reads {s : State} (hs : Probing s) :
    ¬ (s.cur.op = .zeroCal ∧ s.cfg.zeroCalAwaitsResponse = false) := by
  rw [hs.op]
  rintro ⟨h, -⟩
  cases h

theorem Probing.probeNext_eq {s : State} (hs : Probing s) (hlt : s.frames.probeCnt < s.cfg.openVersionTries) :
    probeNext s = startExchange (countProbe s) := by
  rw [probeNext, if_pos ⟨hlt, hs.noVersion⟩]

/-- An exchange of the probe that fails leads to the probe's next decision. -/
theorem Probing.exchangeFailed_eq {n : Nat} {new : List ChCall} {c : Channel} {rest : List ChAnswer} {s u : State}
    (hs : Probing s) (h : Tried n new c rest s u) (e : OpError) : exchangeFailed e u = probeNext u := by
  rw [Machine.exchangeFailed_eq, if_pos (by rw [h.cur, hs.op])]

/-- The channel stays established through a try. -/
theorem Try.channelAfter_established (q : Frame) (c : Channel) (a : Try) :
    (a.channelAfter q c).established = c.established := by
  cases a <;> rfl

/-- A try that fails leads from one decision of the probe to the next (43_handle.md R192). -/
theorem rows_failedTry {a : Try} {s : State} {rest : List ChAnswer} (hs : Probing s)
    (hlt : s.frames.probeCnt < s.cfg.openVersionTries) (ha : a.Fails s.cfg) (hsc : s.script = a.answers ++ rest) :
    ∃ u, Rows (probeNext s) (probeNext u) ∧
      Tried 1 (a.calls (wireFrame .getVersion)) (a.channelAfter (wireFrame .getVersion) s.chan) rest s u := by
  rw [hs.probeNext_eq hlt]
  cases a with
  | short k e0 e1 =>
    have hk : k < 9 := ha
    obtain ⟨u, hrows, hafter⟩ := rows_write (s := startExchange (countProbe s)) (k := k) rfl hs.established hs.encode
      hsc (Nat.le_of_lt hk)
    rw [if_pos hk, hs.exchangeFailed_eq hafter.tried] at hrows
    exact ⟨u, hrows, hafter.tried⟩
  | silent r =>
    obtain ⟨u, hafter, hrows⟩ := rows_silent (s := startExchange (countProbe s)) rfl hs.established hs.encode hsc
      hs.reads ha
    rw [hs.exchangeFailed_eq hafter.tried] at hrows
    exact ⟨u, hrows, hafter.tried⟩
  | corrupt r f =>
    obtain ⟨u, hafter, -, hrows⟩ := rows_delivered (s := startExchange (countProbe s)) rfl hs.established hs.encode hsc
      hs.reads ha.1
    obtain ⟨h1, h2, h3, h4, h5, h6, h7, h8⟩ := hafter.tried
    have htried : Tried 1 (Try.calls (wireFrame .getVersion) (.corrupt r f))
        (Try.channelAfter (wireFrame .getVersion) s.chan (.corrupt r f)) rest s
        (storeMismatch { expected := checksum f, actual := f[8] } u) := ⟨h1, h2, h3, h4, h5, h6, h7, h8⟩
    replace hrows := hrows ha.2
    rw [hs.exchangeFailed_eq htried] at hrows
    exact ⟨_, hrows, htried⟩

/-- Any number of tries that fail, as long as the probe may make them. -/
theorem rows_failedTries {tries : List Try} {s : State} {rest : List ChAnswer} (hs : Probing s)
    (hle : s.frames.probeCnt + tries.length ≤ s.cfg.openVersionTries) (ha : ∀ a ∈ tries, a.Fails s.cfg)
    (hsc : s.script = tries.flatMap Try.answers ++ rest) :
    ∃ u, Rows (probeNext s) (probeNext u) ∧ Probing u ∧
      Tried tries.length (tries.flatMap (Try.calls (wireFrame .getVersion)))
        (tries.foldl (Try.channelAfter (wireFrame .getVersion)) s.chan) rest s u := by
  induction tries generalizing s with
  | nil =>
    have hrest : s.script = rest := hsc
    exact ⟨s, .refl _, hs, hrest ▸ Tried.refl s⟩
  | cons a tries ih =>
    rw [List.length_cons] at hle
    rw [List.flatMap_cons, List.append_assoc] at hsc
    obtain ⟨w, hrows, htried⟩ := rows_failedTry hs (by omega) (ha a List.mem_cons_self) hsc
    have hw : Probing w := hs.tried htried (by rw [Try.channelAfter_established, hs.established])
    obtain ⟨u, hrows', hu, htried'⟩ := ih hw (by rw [htried.probeCnt, htried.cfg]; omega)
      (by rw [htried.cfg]; exact fun b hb => ha b (List.mem_cons_of_mem a hb)) htried.script
    rw [htried.chan] at htried'
    refine ⟨u, hrows.trans hrows', hu, ?_⟩
    rw [List.length_cons, Nat.add_comm]
    exact htried.trans htried'

/-- A try that gets a valid response completes OPEN with the version in its first four payload bytes. -/
theorem rows_versionTry {s : State} {r : Reply} {f : Frame} {rest : List ChAnswer} (hs : Probing s)
    (hlt : s.frames.probeCnt < s.cfg.openVersionTries) (hsc : s.script = r.answers ++ rest)
    (hd : Delivers s.cfg r f) (hf : Valid f) :
    ∃ u, Rows (probeNext s) (completeOpen (interpretGetVersion
        (storeDecoded { rcmd := f[2], rpay := framePayload f } u))) ∧
      Tried 1 (exchangeCalls (wireFrame .getVersion) r) (r.channelAfter (wireFrame .getVersion) s.chan) rest s u := by
  rw [hs.probeNext_eq hlt]
  obtain ⟨u, hafter, hrows, -⟩ := rows_delivered (s := startExchange (countProbe s)) rfl hs.established hs.encode hsc
    hs.reads hd
  refine ⟨u, ?_, hafter.tried⟩
  replace hrows := hrows hf
  have hop : u.cur.op = .openOp := by rw [hafter.tried.cur, hs.op]
  have hdone : exchangeSucceeded (storeDecoded { rcmd := f[2], rpay := framePayload f } u) =
      completeOpen (interpretGetVersion (storeDecoded { rcmd := f[2], rpay := framePayload f } u)) := by
    simp [exchangeSucceeded, hop, probeNext]
  rwa [hdone] at hrows

/-! ## OPEN when the channel opens -/

/-- OPEN begins its probe with no version and the operands of GET_VERSION. -/
theorem probing_openStart (v : Bool) (rest : List ChAnswer) (s : State) : Probing (openStart v rest s) :=
  ⟨rfl, codecEncode_begun (i := .getVersion) rfl s, rfl, rfl⟩

/-- Where the probe's rows complete OPEN, OPEN completes. -/
theorem exec_open_of_rows {v : Bool} {s t : State} {rest : List ChAnswer} (hp : s.phase = .idle)
    (hn : s.handle.hs = .closedNew) (hs : s.script = .opened true :: rest)
    (h : Rows (probeNext (openStart v rest s)) t) (ht : t.phase = .idle) : exec (.openHandle v) s = .next t := by
  obtain ⟨u, hexec, hrows⟩ := open_rows (v := v) hp hn hs
  rw [hexec, runToIdle_of_rows (hrows.trans h) ht]

/-- Settles O18: the failed tries lead to the one that gets the version. -/
theorem openWithVersion : Obligations.OpenWithVersion := by
  unfold Obligations.OpenWithVersion
  intro v s tries r f rest hp hn hlt ha hd hf hs
  obtain ⟨w, hrows, hw, htried⟩ := rows_failedTries (s := openStart v _ s) (rest := r.answers ++ rest)
    (probing_openStart _ _ _) (by simpa [openStart] using Nat.le_of_lt hlt) ha rfl
  have hcfg : w.cfg = s.cfg := htried.cfg
  obtain ⟨u, hrows', htried'⟩ := rows_versionTry (r := r) (f := f) (rest := rest) hw
    (by rw [htried.probeCnt, hcfg]; simpa [openStart] using hlt) htried.script (by rw [hcfg]; exact hd) hf
  obtain ⟨hhandle, hcur, -, htyped, -, hcalls, hchan, hscript⟩ := htried.trans htried'
  have hexec := exec_open_of_rows hp hn hs (hrows.trans hrows') rfl
  obtain ⟨hcfg', hhost, -⟩ := exec_grows hp hexec
  have hwidth : u.cur.width = 4 := by rw [hcur]; rfl
  refine ⟨_, hexec, ⟨rfl, rfl, (operationsEndIdle _ s _ hexec).2 hp⟩, ?hs, ?verbose, rfl, ?ver, htyped, ?calls, hscript,
    ?chan, hcfg', hhost⟩
  case hs => exact congrArg HandleRegs.hs hhandle
  case verbose => exact congrArg HandleRegs.verbose hhandle
  case ver =>
    rw [completeOpen_handle, interpretGetVersion_handle, storeDecoded_raw, hwidth]
    rfl
  case calls =>
    rw [completeOpen_calls, interpretGetVersion_calls, storeDecoded_calls, hcalls]
    simp [openStart]
  case chan =>
    rw [completeOpen_chan, interpretGetVersion_chan, storeDecoded_chan, hchan, htried.chan]
    rfl

/-- Settles O19: after OPEN_VERSION_TRIES failed tries the probe makes no further one. -/
theorem openAbsorbsFailedTries : Obligations.OpenAbsorbsFailedTries := by
  unfold Obligations.OpenAbsorbsFailedTries
  intro v s tries rest hp hn hlen ha hs
  obtain ⟨u, hrows, -, htried⟩ := rows_failedTries (s := openStart v _ s) (rest := rest)
    (probing_openStart _ _ _) (by simpa [openStart] using Nat.le_of_eq hlen) ha rfl
  obtain ⟨hhandle, -, hcfg, htyped, hcnt, hcalls, hchan, hscript⟩ := htried
  have hlast : probeNext u = completeOpen u := by
    have hall : ¬ u.frames.probeCnt < u.cfg.openVersionTries := by
      rw [hcnt, hcfg]
      simpa [openStart] using Nat.le_of_eq hlen.symm
    rw [probeNext, if_neg fun h => hall h.1]
  rw [hlast] at hrows
  have hexec := exec_open_of_rows hp hn hs hrows rfl
  obtain ⟨hcfg', hhost, -⟩ := exec_grows hp hexec
  refine ⟨_, hexec, ⟨rfl, rfl, (operationsEndIdle _ s _ hexec).2 hp⟩, ?hs, ?verbose, ?verValid, ?ver, htyped, ?calls,
    hscript, hchan, hcfg', hhost⟩
  case hs => exact congrArg HandleRegs.hs hhandle
  case verbose => exact congrArg HandleRegs.verbose hhandle
  case verValid => exact congrArg HandleRegs.verValid hhandle
  case ver =>
    rw [completeOpen_handle, hhandle]
    rfl
  case calls =>
    rw [completeOpen_calls, hcalls]
    simp [openStart]

/-! ## CLOSE -/

/-- CLOSE on an open handle releases the channel and completes (43_handle.md R193). -/
theorem exec_close_opened {s : State} {rest : List ChAnswer} (hs : s.Ready) (hsc : s.script = .closed :: rest) :
    exec .closeHandle s = .next (complete (closeRegs
      (({ toPhase .chClose (latch .closeOp none none s) with script := rest } : State).called .close
        { s.chan with established := false }))) := by
  obtain ⟨hp, ho, he⟩ := hs
  rw [exec_eq, runOperation_idle hp]
  simp only [acceptOf, beginClose, ho, andThen_next]
  refine runToIdle_of_rows (.row (by simp) ?_ (.refl _)) rfl
  simp only [tick, toPhase_phase, chCloseRow,
    chClose_scripted (s := toPhase .chClose (latch .closeOp none none s)) he hsc, andThen_next]
  rfl

/-- CLOSE on a handle that is not open takes its error and runs no row. -/
theorem exec_close_error {s : State} {e : OpError} (hp : s.phase = .idle)
    (h : acceptOf .closeHandle s = .next (raise e (latch .closeOp none none s))) :
    exec .closeHandle s = .next (raise e (latch .closeOp none none s)) := by
  rw [exec_eq, runOperation_idle hp, h, andThen_next, runToIdle_idle rfl]

/-- Settles O22: one call on an open handle, an error at acceptance on the others; every field by evaluation. -/
theorem closeResult : Obligations.CloseResult := by
  unfold Obligations.CloseResult
  refine ⟨fun s rest hs hsc => ?opened, fun s hp hn => ?new, fun s hp hd => ?done⟩
  case opened =>
    exact ⟨_, exec_close_opened hs hsc, ⟨rfl, rfl, rfl⟩, rfl, rfl, rfl, rfl, rfl, rfl, rfl, rfl, rfl, rfl, rfl⟩
  case new =>
    exact ⟨_, exec_close_error hp (by simp only [acceptOf, beginClose, hn]), completed_raise_latch .notOpen _ _ _ s,
      rfl, rfl, rfl, rfl, rfl, rfl⟩
  case done =>
    exact ⟨_, exec_close_error hp (by simp only [acceptOf, beginClose, hd]),
      completed_raise_latch .alreadyClosed _ _ _ s, rfl, rfl, rfl, rfl, rfl, rfl⟩

end Sys2Proof.Machine
end

section
/-! Single steps and acceptances: rows with a given answer of the channel (41_transceiver.md R131 to R144), reset, the
host's request, and the latches at acceptance. -/

namespace Sys2Proof.Machine

/-! ## Rows -/

/-- Settles O34: the flush answered by the script, and the phase. -/
theorem flushRow_spec : Obligations.FlushRow := by
  unfold Obligations.FlushRow
  intro s e rest hp he hs
  rw [step_busy (by rw [hp]; decide)]
  simp only [tick, hp, flushRow, chFlush_scripted he hs, andThen_next]
  simp [toPhase, State.called, Channel.move, he]

/-- Settles O36: the count is tested before the budget. -/
theorem nineBytesGoToDecode : Obligations.NineBytesGoToDecode := by
  unfold Obligations.NineBytesGoToDecode
  intro s hp h9
  rw [step_busy (by rw [hp]; decide)]
  simp only [tick, hp, readRow, h9, Nat.lt_irrefl, if_false]
  rfl

/-- Settles O35: the read answered by the script, and the placing of its bytes. -/
theorem readRow_spec : Obligations.ReadRow := by
  unfold Obligations.ReadRow
  intro s k e rest hp he h9 hatt hs hk hlen
  rw [step_busy (by rw [hp]; decide)]
  have hgot : ((s.chan.inBuf ++ e.arrive).take k).length = k := by rw [List.length_take, Nat.min_eq_left hlen]
  have hrow : tick s = .next (accumulate ((s.chan.inBuf ++ e.arrive).take k)
      (({ s with script := rest } : State).called (.read (9 - s.frames.rxCnt) ((s.chan.inBuf ++ e.arrive).take k))
        { s.chan.move e with inBuf := (s.chan.inBuf ++ e.arrive).drop k })) := by
    simp only [tick, hp, readRow, if_pos h9, if_pos hatt, readCall,
      chRead_scripted he hs hk (by rwa [List.length_append] at hlen), andThen_next]
  refine ⟨_, hrow, hp, rfl, ?rxCnt, rfl, rfl, fun j hj hlt => ?before,
    fun j hj hlt => ?placed, fun hall => ?allCalls, fun hzero => ?zeroReturns, rfl, rfl, rfl, rfl, rfl, rfl, rfl, rfl,
    rfl⟩
  case rxCnt => exact congrArg (s.frames.rxCnt + ·) hgot
  case before => exact storeBytes_before _ _ _ _ hj hlt
  case placed =>
    have hplaced := storeBytes_at s.frames.rxf s.frames.rxCnt j ((s.chan.inBuf ++ e.arrive).take k) hj
      (by rw [hgot]; exact hlt)
    rw [List.getElem_take] at hplaced
    rw [List.getElem?_eq_getElem (by omega), ← hplaced]
    rfl
  case allCalls =>
    show s.frames.att + charge s.cfg.attemptCounting _ = _
    rw [hall, charge]
  case zeroReturns =>
    show s.frames.att + charge s.cfg.attemptCounting _ = _
    rw [hzero, charge, hgot]

/-! ## Answers outside the contract -/

/-- A row that calls the channel is that call and a continuation, so a call that stops stops the row. -/
theorem tick_of_callsNext {s : State} (h : CallsNext s) :
    (∃ k, tick s = andThen (chOpen s) k) ∨
    (s.chan.established = true ∧
      ((∃ k, tick s = andThen (chFlush s) k) ∨ (∃ f k, tick s = andThen (chWrite (loadFrame f s)) k) ∨
        (∃ n k, tick s = andThen (chRead n s) k) ∨ ∃ k, tick s = andThen (chClose s) k)) := by
  cases hp : s.phase <;> simp only [CallsNext, hp] at h
  case chOpen => exact .inl ⟨_, by simp only [tick, hp, chOpenRow]; rfl⟩
  case flush => exact .inr ⟨h, .inl ⟨_, by simp only [tick, hp, flushRow]; rfl⟩⟩
  case write =>
    obtain ⟨f, hf⟩ := Option.isSome_iff_exists.mp h.2
    exact .inr ⟨h.1, .inr (.inl ⟨f, _, by simp only [tick, hp, writeRow, hf]; rfl⟩)⟩
  case read =>
    obtain ⟨he, h9, hatt⟩ := h
    exact .inr ⟨he, .inr (.inr (.inl ⟨_, _, by simp only [tick, hp, readRow, if_pos h9, if_pos hatt, readCall]; rfl⟩))⟩
  case chClose => exact .inr ⟨h, .inr (.inr (.inr ⟨_, by simp only [tick, hp, chCloseRow]; rfl⟩))⟩

/-- A block about to call the channel is busy. -/
theorem busy_of_callsNext {s : State} (h : CallsNext s) : s.phase ≠ .idle := by
  intro hp
  simp [CallsNext, hp] at h

/-- A write count outside 0 to 9 is refused (41_transceiver.md R144). -/
theorem chWrite_outside {s : State} {k : Int} {e : LineEvent} {rest : List ChAnswer} (he : s.chan.established = true)
    (hs : s.script = .wrote k e :: rest) (hk : k < 0 ∨ 9 < k) : chWrite s = .refused .channelContract := by
  have hout : ¬ (0 ≤ k ∧ k ≤ 9) := by omega
  simp [chWrite, nextAnswer_scripted hs, he, hout]

/-- A read count outside 0 to what was asked for is refused (41_transceiver.md R144). -/
theorem chRead_outside {n : Nat} {s : State} {k : Int} {e : LineEvent} {rest : List ChAnswer}
    (he : s.chan.established = true) (hs : s.script = .gave k e :: rest) (hk : k < 0 ∨ n < k) :
    chRead n s = .refused .channelContract := by
  have hout : ¬ (0 ≤ k ∧ k ≤ n ∧ k ≤ (s.chan.move e).inBuf.length) := by omega
  simp only [chRead, nextAnswer_scripted hs, he, if_true, if_neg hout]

/-- An error return, and a call that never returns, stop every call alike (log 8). -/
theorem tick_stops {s : State} {a : ChAnswer} {rest : List ChAnswer} {o : Host.Outcome State Fault Refusal}
    (h : CallsNext s) (hs : s.script = a :: rest)
    (ho : (a = .failed ∧ o = .refused .channelContract) ∨ (a = .never ∧ o = .fault .channelCallNeverReturns)) :
    tick s = o := by
  rcases tick_of_callsNext h with ⟨k, hk⟩ | ⟨he, ⟨k, hk⟩ | ⟨f, k, hk⟩ | ⟨n, k, hk⟩ | ⟨k, hk⟩⟩ <;> rw [hk]
  · rcases ho with ⟨rfl, rfl⟩ | ⟨rfl, rfl⟩ <;> simp [chOpen, nextAnswer_scripted hs]
  · rcases ho with ⟨rfl, rfl⟩ | ⟨rfl, rfl⟩ <;> simp [chFlush, nextAnswer_scripted hs, he]
  · rcases ho with ⟨rfl, rfl⟩ | ⟨rfl, rfl⟩ <;> simp [chWrite, nextAnswer_scripted (s := loadFrame f s) hs, he]
  · rcases ho with ⟨rfl, rfl⟩ | ⟨rfl, rfl⟩ <;> simp [chRead, nextAnswer_scripted hs, he]
  · rcases ho with ⟨rfl, rfl⟩ | ⟨rfl, rfl⟩ <;> simp [chClose, nextAnswer_scripted hs, he]

/-- Settles O37: the two counts at their rows, and the two answers of no count at every call. -/
theorem answersOutsideTheContract : Obligations.AnswersOutsideTheContract := by
  unfold Obligations.AnswersOutsideTheContract
  refine ⟨fun s k e rest hp hc hs hk => ?write, fun s k e rest hp hc hs hk => ?read, fun s rest hc hs => ?failed,
    fun s rest hc hs => ?never⟩
  case write =>
    rw [step_busy (busy_of_callsNext hc)]
    simp only [CallsNext, hp] at hc
    obtain ⟨he, hsome⟩ := hc
    obtain ⟨f, hf⟩ := Option.isSome_iff_exists.mp hsome
    simp only [tick, hp, writeRow, hf, chWrite_outside (s := loadFrame f s) he hs hk, andThen_refused]
  case read =>
    rw [step_busy (busy_of_callsNext hc)]
    simp only [CallsNext, hp] at hc
    obtain ⟨he, h9, hatt⟩ := hc
    simp only [tick, hp, readRow, if_pos h9, if_pos hatt, readCall,
      chRead_outside (n := 9 - s.frames.rxCnt) he hs (by omega), andThen_refused]
  case failed =>
    rw [step_busy (busy_of_callsNext hc)]
    exact tick_stops hc hs (.inl ⟨rfl, rfl⟩)
  case never =>
    rw [step_busy (busy_of_callsNext hc)]
    exact tick_stops hc hs (.inr ⟨rfl, rfl⟩)

/-! ## Reset and the host's request -/

/-- Settles O12: the reset state, and the reset of a block register by register. -/
theorem resetLeaves : Obligations.ResetLeaves := by
  unfold Obligations.ResetLeaves
  refine ⟨by decide, fun s rest hp hs => ⟨_, step_idle_reset hp hs, ?_⟩⟩
  simp [State.reset, hs]

/-- An idle block takes a request that selects an operation from the port and runs it (43_handle.md R196). -/
theorem step_idle_request {s : State} {r : HostReq} {rest : List HostEvent} {i : Instr} (hp : s.phase = .idle)
    (hs : s.hostIn = .request r :: rest) (hd : decodeHost r = .ok i) : step s = exec i { s with hostIn := rest } := by
  simp only [step, hp, hs, hd, State.dropHost, if_true, List.drop_succ_cons, List.drop_zero]

/-- Settles O14: the four kinds of steps; a table word is presented as the request that selects its instruction. -/
theorem stepRunsDecoded : Obligations.StepRunsDecoded := by
  unfold Obligations.StepRunsDecoded
  refine ⟨fun s r rest i hp hs hd => step_idle_request hp hs hd, fun s hp hs => ?nothing, fun s hb => step_busy hb,
    fun s nbits w i hw => ?word⟩
  case nothing => simp only [step, hp, hs, if_true]
  case word =>
    have hrequest : tableRequest nbits w = encodeHost i := by rw [tableRequest, hw]
    have hd : decodeHost (tableRequest nbits w) = .ok i := by
      rw [hrequest]
      exact (decodeEncode i (by cases i <;> rfl)).2
    exact step_idle_request (s := s.withFetchWord nbits w) rfl rfl hd

/-! ## Acceptance -/

/-- Settles O50: what `latch` writes at each acceptance, and `exec_eq` for the acceptance each instruction runs. -/
theorem latchesAtAcceptance : Obligations.LatchesAtAcceptance := by
  unfold Obligations.LatchesAtAcceptance
  refine ⟨fun v s u h => ?openOp, fun s u h hb => ?closeOp, fun o a r s u h hb => ?command,
    fun v s => exec_eq (.openHandle v) s, fun s => exec_eq .closeHandle s, fun i r hr => ?instr⟩
  case openOp =>
    rw [beginOpen] at h
    split at h <;> cases h
    rfl
  case closeOp =>
    rw [beginClose] at h
    split at h <;> cases h <;> rfl
  case command =>
    rw [beginCommand] at h
    split at h <;> cases h
    · refine ⟨rfl, ?_, rfl, rfl, rfl, rfl⟩
      rintro b rfl
      rfl
    · exact absurd rfl hb
  case instr =>
    have hi : i.isCommand = true := Option.isSome_iff_exists.mpr ⟨r, hr⟩
    have hreq : reqOf i = r := by rw [reqOf, hr, Option.getD_some]
    refine ⟨argOf i, fun s => ?_, ?_, ?_⟩
    · rw [exec_eq, acceptOf_command hi, hreq]
    · rintro rfl
      rfl
    · rintro rfl
      rfl

end Sys2Proof.Machine
end

section
/-! Two runs compared: what stood in the channel's input buffer before a command, and what the handle notes beside its
state, decide nothing (20_memory.md R62, 43_handle.md R197). -/

namespace Sys2Proof.Machine

/-! ## Stale bytes -/

/-- The flush does not see what it discards. -/
theorem chFlush_stale (s : State) (stale : List Byte) :
    chFlush { s with chan := { s.chan with inBuf := stale } } = chFlush s := by
  unfold chFlush nextAnswer
  cases s.script <;> rfl

/-- The first row of a run is the only one that meets the state it begins in. -/
theorem runToIdle_eq_of_tick_eq {s t : State} (hs : s.phase ≠ .idle) (ht : t.phase ≠ .idle) (hcfg : t.cfg = s.cfg)
    (h : tick t = tick s) : runToIdle t = runToIdle s := by
  have hbound : rowBound s.cfg = (s.cfg.openVersionTries + 1) * (s.cfg.retryCeiling + 16) + 1 + 1 := rfl
  rw [runToIdle, runToIdle, hcfg, hbound, runRows, runRows, if_neg hs, if_neg ht, h]

/-- Settles O41: the first row of a command on an open handle is the flush. -/
theorem staleBytesNeverLeak : Obligations.StaleBytesNeverLeak := by
  unfold Obligations.StaleBytesNeverLeak
  intro i s stale hi hp ho
  rw [exec_command hi hp, exec_command (s := { s with chan := { s.chan with inBuf := stale } }) hi hp, if_pos ho,
    if_pos ho]
  refine runToIdle_eq_of_tick_eq (by simp) (by simp) rfl ?_
  have hflush := chFlush_stale (begun i s) stale
  simp only [tick, startExchange_phase, flushRow]
  exact congrArg (fun x => andThen x fun u => .next (toPhase .write u)) hflush

/-! ## The handle's notes: the block's own moves

`SameButNotes s t` says that `t` is `s` with other handle registers and the same handle state. -/

theorem SameButNotes.cur {s t : State} (h : SameButNotes s t) : t.cur = s.cur := by rw [h.2]

theorem SameButNotes.phase {s t : State} (h : SameButNotes s t) : t.phase = s.phase := by rw [h.2]

/-- An error takes no notice of the notes. -/
theorem SameButNotes.raise {s t : State} (h : SameButNotes s t) (e : OpError) :
    SameButNotes (raise e s) (raise e t) := by
  obtain ⟨hhs, ht⟩ := h
  exact ⟨hhs, by rw [ht]; rfl⟩

theorem SameButNotes.complete {s t : State} (h : SameButNotes s t) : SameButNotes (complete s) (complete t) := by
  obtain ⟨hhs, ht⟩ := h
  exact ⟨hhs, by rw [ht]; rfl⟩

/-- An interpretation takes no notice of the notes; GET_VERSION writes some. -/
theorem SameButNotes.interpret {s t : State} (h : SameButNotes s t) : SameButNotes (interpret s) (interpret t) := by
  obtain ⟨hhs, ht⟩ := h
  refine ⟨by rw [interpret_hs, interpret_hs, hhs], ?_⟩
  rw [ht]
  unfold Machine.interpret
  cases s.cur.op <;> rfl

theorem SameButNotes.exchangeFailed {s t : State} (h : SameButNotes s t) (hop : s.cur.op ≠ .openOp) (e : OpError) :
    SameButNotes (exchangeFailed e s) (exchangeFailed e t) := by
  rw [exchangeFailed_command hop, exchangeFailed_command (by rw [h.cur]; exact hop)]
  exact h.raise e

theorem SameButNotes.exchangeSucceeded {s t : State} (h : SameButNotes s t) (hop : s.cur.op ≠ .openOp) :
    SameButNotes (exchangeSucceeded s) (exchangeSucceeded t) := by
  rw [exchangeSucceeded_eq, exchangeSucceeded_eq, if_neg hop, if_neg (by rw [h.cur]; exact hop)]
  exact h.interpret.complete

theorem SameButNotes.exchangeWritten {s t : State} (h : SameButNotes s t) :
    SameButNotes (exchangeWritten s) (exchangeWritten t) := by
  obtain ⟨hhs, ht⟩ := h
  rw [ht]
  unfold Machine.exchangeWritten
  dsimp only
  split <;> exact ⟨hhs, rfl⟩

/-- The probe's decision depends on no note but whether a version is cached. -/
theorem SameButNotes.probeNext {s t : State} (h : SameButNotes s t) (hver : t.handle.verValid = s.handle.verValid) :
    SameButNotes (probeNext s) (probeNext t) := by
  obtain ⟨hhs, ht⟩ := h
  refine ⟨by rw [probeNext_handle, probeNext_handle, hhs], ?_⟩
  rw [probeNext_handle]
  unfold Machine.probeNext
  rw [hver]
  rw [ht]
  dsimp only
  split <;> rfl

/-! ## The handle's notes: calls, rows and runs -/

/-- The state with other handle registers. -/
def withHandle (h : HandleRegs) (s : State) : State := { s with handle := h }

@[simp] theorem withHandle_phase (h : HandleRegs) (s : State) : (withHandle h s).phase = s.phase := rfl
@[simp] theorem withHandle_frames (h : HandleRegs) (s : State) : (withHandle h s).frames = s.frames := rfl
@[simp] theorem withHandle_cur (h : HandleRegs) (s : State) : (withHandle h s).cur = s.cur := rfl
@[simp] theorem withHandle_cfg (h : HandleRegs) (s : State) : (withHandle h s).cfg = s.cfg := rfl

theorem sameButNotes_withHandle {h : HandleRegs} {s : State} (hh : h.hs = s.handle.hs) :
    SameButNotes s (withHandle h s) := ⟨hh, rfl⟩

/-- A sequence of three parts. -/
theorem andThen_assoc {α β γ : Type} (x : Host.Outcome α Fault Refusal) (f : α → Host.Outcome β Fault Refusal)
    (g : β → Host.Outcome γ Fault Refusal) : andThen (andThen x f) g = andThen x fun a => andThen (f a) g := by
  cases x <;> rfl

/-- No call sees the handle registers. -/
theorem chOpen_withHandle (h : HandleRegs) (s : State) :
    chOpen (withHandle h s) = andThen (chOpen s) fun r => .next (r.1, withHandle h r.2) := by
  unfold chOpen nextAnswer withHandle
  cases s.script with
  | nil => rfl
  | cons a rest => cases a <;> rfl

theorem chClose_withHandle (h : HandleRegs) (s : State) :
    chClose (withHandle h s) = andThen (chClose s) fun u => .next (withHandle h u) := by
  unfold chClose nextAnswer withHandle
  dsimp only
  split
  · cases s.script with
    | nil => rfl
    | cons a rest => cases a <;> rfl
  · rfl

theorem chFlush_withHandle (h : HandleRegs) (s : State) :
    chFlush (withHandle h s) = andThen (chFlush s) fun u => .next (withHandle h u) := by
  unfold chFlush nextAnswer withHandle
  dsimp only
  split
  · cases s.script with
    | nil => rfl
    | cons a rest => cases a <;> rfl
  · rfl

theorem chWrite_withHandle (h : HandleRegs) (s : State) :
    chWrite (withHandle h s) = andThen (chWrite s) fun r => .next (r.1, withHandle h r.2) := by
  unfold chWrite nextAnswer withHandle
  dsimp only
  split
  · cases s.script with
    | nil => dsimp only; split <;> rfl
    | cons a rest =>
      cases a with
      | wrote count e => dsimp only; split <;> rfl
      | _ => rfl
  · rfl

theorem chRead_withHandle (n : Nat) (h : HandleRegs) (s : State) :
    chRead n (withHandle h s) = andThen (chRead n s) fun r => .next (r.1, withHandle h r.2) := by
  unfold chRead nextAnswer withHandle
  dsimp only
  split
  · cases s.script with
    | nil => dsimp only; split <;> rfl
    | cons a rest =>
      cases a with
      | gave count e => dsimp only; split <;> rfl
      | _ => rfl
  · rfl

/-- Sequences agree where their continuations do. -/
theorem agree_andThen {α : Type} {x : Host.Outcome α Fault Refusal} {f g : α → Host.Outcome State Fault Refusal}
    (h : ∀ a, x = .next a → AgreeButNotes (f a) (g a)) : AgreeButNotes (andThen x f) (andThen x g) := by
  cases x with
  | next a => exact h a rfl
  | fault r => exact rfl
  | refused r => exact rfl

/-- Sequences of two agreeing parts agree. -/
theorem AgreeButNotes.andThen {x y : Host.Outcome State Fault Refusal} {f g : State → Host.Outcome State Fault Refusal}
    (h : AgreeButNotes x y) (hfg : ∀ a b, x = .next a → SameButNotes a b → AgreeButNotes (f a) (g b)) :
    AgreeButNotes (andThen x f) (andThen y g) := by
  cases x with
  | next a =>
    cases y with
    | next b => exact hfg a b rfl h
    | _ => exact h.elim
  | fault r =>
    cases y with
    | fault r' => exact h
    | _ => exact h.elim
  | refused r =>
    cases y with
    | refused r' => exact h
    | _ => exact h.elim

section
variable {h : HandleRegs} {s : State} (hh : h.hs = s.handle.hs)
include hh

theorem agree_chOpenRow : AgreeButNotes (chOpenRow s) (chOpenRow (withHandle h s)) := by
  rw [chOpenRow, chOpenRow, chOpen_withHandle, andThen_assoc]
  refine agree_andThen fun r hr => ?_
  obtain ⟨sc, d, hr2⟩ := chOpen_next hr
  have hsame : SameButNotes r.2 (withHandle h r.2) := sameButNotes_withHandle (by rw [hr2]; exact hh)
  rw [andThen_next]
  cases r.1 with
  | true => exact SameButNotes.probeNext (s := openRegs r.2) ⟨rfl, rfl⟩ rfl
  | false => exact hsame.raise .channelOpenError

theorem agree_flushRow : AgreeButNotes (flushRow s) (flushRow (withHandle h s)) := by
  rw [flushRow, flushRow, chFlush_withHandle, andThen_assoc]
  refine agree_andThen fun u hu => ?_
  obtain ⟨-, sc, d, e, rfl⟩ := chFlush_next hu
  exact ⟨hh, rfl⟩

theorem agree_writeRow (hop : s.cur.op ≠ .openOp) : AgreeButNotes (writeRow s) (writeRow (withHandle h s)) := by
  rw [writeRow, writeRow, withHandle_cur]
  split
  · exact rfl
  · next f _ =>
    rw [show loadFrame f (withHandle h s) = withHandle h (loadFrame f s) from rfl, chWrite_withHandle, andThen_assoc]
    refine agree_andThen fun r hr => ?_
    obtain ⟨-, -, sc, d, e, hr2⟩ := chWrite_next hr
    have hsame : SameButNotes r.2 (withHandle h r.2) := sameButNotes_withHandle (by rw [hr2]; exact hh)
    rw [andThen_next]
    dsimp only
    split
    · exact hsame.exchangeFailed (by rw [hr2]; exact hop) _
    · exact hsame.exchangeWritten

theorem agree_readRow (hop : s.cur.op ≠ .openOp) : AgreeButNotes (readRow s) (readRow (withHandle h s)) := by
  rw [readRow, readRow, withHandle_frames, withHandle_cfg]
  split
  · split
    · rw [readCall, readCall, withHandle_frames, chRead_withHandle, andThen_assoc]
      refine agree_andThen fun r hr => ?_
      obtain ⟨-, -, sc, d, e, hr2, -⟩ := chRead_next hr
      exact ⟨by rw [hr2]; exact hh, rfl⟩
    · exact (sameButNotes_withHandle hh).exchangeFailed hop _
  · exact ⟨hh, rfl⟩

theorem agree_decodeRow (hop : s.cur.op ≠ .openOp) : AgreeButNotes (decodeRow s) (decodeRow (withHandle h s)) := by
  rw [decodeRow, decodeRow, withHandle_frames]
  split
  · next d _ => exact SameButNotes.exchangeSucceeded (s := storeDecoded d s) ⟨hh, rfl⟩ hop
  · next m _ => exact SameButNotes.exchangeFailed (s := storeMismatch m s) ⟨hh, rfl⟩ hop _

omit hh in
theorem agree_chCloseRow : AgreeButNotes (chCloseRow s) (chCloseRow (withHandle h s)) := by
  rw [chCloseRow, chCloseRow, chClose_withHandle, andThen_assoc]
  refine agree_andThen fun u _ => ?_
  have hsame : SameButNotes (closeRegs u) (closeRegs (withHandle h u)) := ⟨rfl, rfl⟩
  exact hsame.complete

end

/-- Every row of an operation but OPEN takes no notice of the notes. -/
theorem SameButNotes.row {s t : State} (h : SameButNotes s t) (hop : s.cur.op ≠ .openOp) :
    AgreeButNotes (tick s) (tick t) := by
  obtain ⟨hhs, ht⟩ := h
  replace ht : t = withHandle t.handle s := ht
  rw [ht]
  cases hp : s.phase <;> simp only [tick, withHandle_phase, hp]
  case idle => exact sameButNotes_withHandle hhs
  case chOpen => exact agree_chOpenRow hhs
  case flush => exact agree_flushRow hhs
  case write => exact agree_writeRow hhs hop
  case read => exact agree_readRow hhs hop
  case decode => exact agree_decodeRow hhs hop
  case chClose => exact agree_chCloseRow

/-- So does every run of rows. -/
theorem SameButNotes.runRows {s t : State} (h : SameButNotes s t) (hop : s.cur.op ≠ .openOp) (n : Nat) :
    AgreeButNotes (runRows n s) (runRows n t) := by
  induction n generalizing s t with
  | zero => exact h
  | succ n ih =>
    rw [Machine.runRows, Machine.runRows, h.phase]
    split
    · exact h
    · next hb =>
      refine (h.row hop).andThen fun a b ha hab => ih hab ?_
      rw [(tick_kept hb ha).cur]
      exact hop

theorem SameButNotes.runToIdle {s t : State} (h : SameButNotes s t) (hop : s.cur.op ≠ .openOp) :
    AgreeButNotes (runToIdle s) (runToIdle t) := by
  have hcfg : t.cfg = s.cfg := by rw [h.2]
  rw [Machine.runToIdle, Machine.runToIdle, hcfg]
  exact h.runRows hop _

/-! ## The handle's notes: operations -/

/-- Acceptance looks at the handle state only (43_handle.md R194, R195). -/
theorem SameButNotes.accept {s t : State} (h : SameButNotes s t) {i : Instr} (hi : ∀ v, i ≠ .openHandle v) :
    AgreeButNotes (acceptOf i s) (acceptOf i t) := by
  obtain ⟨hhs, ht⟩ := h
  rcases instr_kinds i with ⟨v, rfl⟩ | rfl | hc
  · exact absurd rfl (hi v)
  · simp only [acceptOf, beginClose, hhs]
    rw [ht]
    split <;> exact ⟨hhs, rfl⟩
  · rw [acceptOf_command hc, beginCommand, beginCommand, hhs]
    rw [ht]
    split <;> exact ⟨hhs, rfl⟩

/-- Settles O42: acceptance and rows agree. -/
theorem notesDecideNothing : Obligations.NotesDecideNothing := by
  unfold Obligations.NotesDecideNothing
  intro i s t hi hp h
  rw [exec_eq, exec_eq, runOperation_idle hp, runOperation_idle (h.phase.trans hp)]
  refine (h.accept hi).andThen fun a b ha hab => hab.runToIdle ?_
  obtain ⟨-, -, hop, -⟩ := acceptOf_keeps ha
  rw [hop]
  cases i with
  | openHandle v => exact absurd rfl (hi v)
  | _ => nofun

end Sys2Proof.Machine
end
